-- ==== Sys2Proof/Word.lean ====
section
/-! DEFINITION. The word types of the Model 960 (00_scope.md R6, R10, R11; 20_memory.md R60). -/

namespace Sys2Proof

/-- A memory word, a general register, a location counter or an address: 16 bits (R6, R21, R25, R60). -/
abbrev Word := BitVec 16

/-- A double-length quantity, or the two words of an instruction, first word most significant
(R10, R11, R61). -/
abbrev DWord := BitVec 32

/-- Half a word: what one `Host.Cell` of the memory list holds. -/
abbrev Byte := BitVec 8

/-- A general register number of one file, 0 to 7 (R21). -/
abbrev RegNo := Fin 8

/-- The place of a register in the file of sixteen, which is its address less `0x80` (R21, R22). -/
abbrev FileIndex := Fin 16

/-- A CRU line address `0x000` to `0xFFF` (R82). -/
abbrev CruLine := BitVec 12

/-- The levels of the 4096 CRU lines: the addresses of those at 1, rising (R46, R82). -/
abbrev CruLines := List Nat

/-- The three-valued comparison code of `ST<10:12>` (10_state.md R36). -/
inductive Comparison where
  /-- ST10: greater than -/
  | greater
  /-- ST11: equal -/
  | equal
  /-- ST12: less than -/
  | less
  deriving DecidableEq, Repr, Inhabited

/-- The two execution modes (10_state.md R32). -/
inductive Mode where
  | supervisor
  | worker
  deriving DecidableEq, Repr

end Sys2Proof
end

