-- ==== Sys2Proof/Machine/Bits.lean ====
section
/-! DEFINITION. Bits and fields of words in the manual's numbering, bit 0 most significant (00_scope.md R10, R12). -/

namespace Sys2Proof.Machine

/-- `w<i>` (R10). -/
def bit (w : Word) (i : Nat) : Bool := w.getMsbD i

/-- The weight of bit `i`, `2 ^ (15 - i)` (R10). -/
def bitMask (i : Nat) : Word := 0x8000#16 >>> i

/-- `w<i> <- b`, the other bits kept. -/
def setBit (w : Word) (i : Nat) (b : Bool) : Word :=
  if b then w ||| bitMask i else w &&& ~~~bitMask i

/-- `w<12:15>` (R115). -/
def low4 (w : Word) : BitVec 4 := w.extractLsb' 0 4

/-- `w<11:15>` (R115). -/
def low5 (w : Word) : BitVec 5 := w.extractLsb' 0 5

/-- The most significant half of a double-length value, `v<0:15>` (R11). -/
def highWord (v : DWord) : Word := v.extractLsb' 16 16

/-- The least significant half, `v<16:31>` (R11). -/
def lowWord (v : DWord) : Word := v.extractLsb' 0 16

/-- `hi : lo` (R12). -/
def joinWords (hi lo : Word) : DWord := hi ++ lo

/-- The more significant half-word cell of a word, bits 0 to 7. -/
def upperByte (v : Word) : Byte := v.extractLsb' 8 8

/-- The less significant half-word cell of a word, bits 8 to 15. -/
def lowerByte (v : Word) : Byte := v.extractLsb' 0 8

/-- `sext_16` of a format I-D addend (R115). -/
def extend4 (v : BitVec 4) : Word := v.signExtend 16

/-- `sext_16` of a format II-C value (R115). -/
def extend13 (v : BitVec 13) : Word := v.signExtend 16

/-- `zext_16` of a 10-bit displacement (R115). -/
def extend10 (v : BitVec 10) : Word := v.setWidth 16

/-- A CRU line address is a sum taken modulo 4096 (R83, D18). -/
def lineOf (w : Word) : CruLine := w.setWidth 12

end Sys2Proof.Machine
end

