-- ==== Sys2Proof/Machine/Flags.lean ====
section
/-! DEFINITION. The status register's fields (10_state.md R30 to R40) and the arithmetic that writes them
(40_format_IA.md R151). -/

namespace Sys2Proof.Machine

/-! ### Bit numbers of `ST` (R30) -/

/-- Mode Indicator -/
def bitMI : Nat := 0
/-- Overflow Indicator -/
def bitOI : Nat := 1
/-- Memory Parity -/
def bitMP : Nat := 2
/-- Power Failure -/
def bitPF : Nat := 3
/-- Undefined Code -/
def bitUC : Nat := 4
/-- Memory Violation -/
def bitMV : Nat := 5
/-- Index Mode -/
def bitIM : Nat := 6
/-- Internal Interrupt Mask -/
def bitII : Nat := 7
/-- DMAC Interrupt Mask -/
def bitDI : Nat := 8
/-- CRU Interrupt Mask -/
def bitCI : Nat := 9
/-- comparison `greater than` -/
def bitGT : Nat := 10
/-- comparison `equal` -/
def bitEQ : Nat := 11
/-- comparison `less than` -/
def bitLT : Nat := 12
/-- Carry Out Indicator -/
def bitCO : Nat := 13

/-- The mode `MI` names (R32). -/
def modeOf (st : Word) : Mode := if bit st bitMI then .worker else .supervisor

/-- `MI` for a mode. -/
def Mode.bit : Mode → Bool
  | .supervisor => false
  | .worker => true

/-- The inactive mode (R14). -/
def otherMode : Mode → Mode
  | .supervisor => .worker
  | .worker => .supervisor

/-- `ST<10:12> <- ` the one-hot code (R36). -/
def withComparison (st : Word) (c : Comparison) : Word :=
  setBit (setBit (setBit st bitGT (c == .greater)) bitEQ (c == .equal)) bitLT (c == .less)

/-! ### Comparisons (R36) -/

/-- Comparison of signed integers: CR, CRA, CM, CML, CMI (R157). -/
def compareSigned (a b : Word) : Comparison :=
  if a.toInt > b.toInt then .greater else if a.toInt < b.toInt then .less else .equal

/-- Comparison of unsigned integers: CRL, CRLA (R159). -/
def compareLogical (a b : Word) : Comparison :=
  if a.toNat > b.toNat then .greater else if a.toNat < b.toNat then .less else .equal

/-- What `setCB(v)` writes: `v` compared with zero (R36). -/
def compareZero (v : Word) : Comparison := compareSigned v 0#16

/-! ### Sums and differences (R151) -/

/-- A 16-bit result with its carry and overflow. -/
structure Sum where
  value : Word
  carry : Bool
  overflow : Bool
  deriving DecidableEq, Repr

/-- A 32-bit result with its overflow. -/
structure DoubleSum where
  value : DWord
  overflow : Bool
  deriving DecidableEq, Repr

/-- An integer is outside the signed range of `w` bits. -/
def outside (w : Nat) (x : Int) : Bool := decide (x < -(2 ^ (w - 1) : Int)) || decide ((2 ^ (w - 1) : Int) ≤ x)

/-- `add16` (R151). -/
def add16 (a b : Word) : Sum where
  value := a + b
  carry := decide (2 ^ 16 ≤ a.toNat + b.toNat)
  overflow := outside 16 (a.toInt + b.toInt)

/-- `sub16` (R151); the carry is that of `a + NOT b + 1` (D11). -/
def sub16 (a b : Word) : Sum where
  value := a - b
  carry := decide (b.toNat ≤ a.toNat)
  overflow := outside 16 (a.toInt - b.toInt)

/-- `add32` (R151). -/
def add32 (a b : DWord) : DoubleSum where
  value := a + b
  overflow := outside 32 (a.toInt + b.toInt)

/-- `sub32` (R151). -/
def sub32 (a b : DWord) : DoubleSum where
  value := a - b
  overflow := outside 32 (a.toInt - b.toInt)

/-! ### Shifts and counts (R151) -/

/-- `ov` of `shl(v, W, c)`: some single-place step changed the sign bit (R151, D14). -/
def shiftOverflow {w : Nat} (v : BitVec w) : Nat → Bool
  | 0 => false
  | c + 1 => (v.msb != (v <<< 1).msb) || shiftOverflow (v <<< 1) c

/-- `sra` (R151). -/
def shiftRightArith {w : Nat} (v : BitVec w) (c : Nat) : BitVec w := v.sshiftRight c

/-- `srl` (R151). -/
def shiftRightLogical {w : Nat} (v : BitVec w) (c : Nat) : BitVec w := v >>> c

/-- `ror` (R151); a rotation by the whole width changes nothing. -/
def rotateRight {w : Nat} (v : BitVec w) (c : Nat) : BitVec w := v.rotateRight c

/-- How many of the `k` least significant bits are 1. -/
def onesBelow (v : Word) : Nat → Nat
  | 0 => 0
  | k + 1 => (v.getLsbD k).toNat + onesBelow v k

/-- `popcount(v)` (R151). -/
def popcount (v : Word) : Nat := onesBelow v 16

/-- How many 0 bits lead, looking at `k` bits. -/
def leadingZeros (v : Word) : Nat → Nat
  | 0 => 0
  | k + 1 => if v.msb then 0 else 1 + leadingZeros (v <<< 1) k

/-- `clz16(v)`: 16 when `v = 0` (R151). -/
def clz16 (v : Word) : Nat := leadingZeros v 16

/-- A register-held count of four bits, 0 meaning 16 (R175). -/
def count16 (w : Word) : Nat := if low4 w = 0#4 then 16 else (low4 w).toNat

/-- A register-held count of five bits, 0 meaning 32 (R164). -/
def count32 (w : Word) : Nat := if low5 w = 0#5 then 32 else (low5 w).toNat

/-! ### Multiply and divide (R161, R173) -/

/-- The 32-bit product of two signed words (R173, D29). -/
def multiply (a b : Word) : DWord := BitVec.ofInt 32 (a.toInt * b.toInt)

/-- A quotient and remainder. -/
structure Quotient where
  quotient : Word
  remainder : Word
  deriving DecidableEq, Repr

/-- The quotient rounded toward zero and its remainder, or none when the divisor is 0 or the quotient does not fit 16 bits
(R161, D12, D13). -/
def divide (n : DWord) (d : Word) : Option Quotient :=
  if d = 0#16 ∨ outside 16 (n.toInt.tdiv d.toInt) = true then none
  else some
    { quotient := BitVec.ofInt 16 (n.toInt.tdiv d.toInt)
      remainder := BitVec.ofInt 16 (n.toInt - n.toInt.tdiv d.toInt * d.toInt) }

end Sys2Proof.Machine
end

