-- ==== Sys2Proof/Config.lean ====
section
/-! DEFINITION. What an installation fixes (00_scope.md R7, 92_eei_decisions.md section 3) and the free values:
what the spec leaves at `any value` (93_implementation_defined.md). -/

namespace Sys2Proof

/-- `MODEL` (R7). -/
inductive MachineModel where
  | m960A
  | m960B
  deriving DecidableEq, Repr

/-- `PROTECT_LIMIT`: the standard limit and the nine optional ones of Table 2-1 (R7, R71). -/
inductive ProtectLimit where
  | to007F
  | to00FF
  | to01FF
  | to03FF
  | to07FF
  | to0FFF
  | to1FFF
  | to3FFF
  | to7FFF
  | toFFFF
  deriving DecidableEq, Repr

/-- `MEMORY_KIND` (R7). It affects timing only, which the model leaves out, so no definition reads it. -/
inductive MemoryKind where
  | semiconductor
  | core
  deriving DecidableEq, Repr

/-- `INTERNAL_MASKED_POLICY` (R378). -/
inductive MaskedPolicy where
  /-- the request waits until `II` is 0 (default) -/
  | hold
  /-- only the cause bit records the event -/
  | drop
  deriving DecidableEq, Repr

/-- When the internal request that is being taken leaves its latch. R381 lists `internal_pending <- false` in step 3, after the
instruction in the location; R380 has a cause which that instruction raises recognised at the next sample, which step 3 would
discard. 90_conflicts.md has no ruling, so both readings are kept. DESIGN CHOICE of the model (log 20). -/
inductive RequestClearing where
  /-- in step 3, as R381 lists it: a cause that the location's instruction raises leaves its bit and no request (default) -/
  | last
  /-- before the location's instruction, so that a cause it raises stays requested, as R380 has it -/
  | first
  deriving DecidableEq, Repr

/-- `SETF_CB_POLICY` (R281, D19). -/
inductive SetfPolicy where
  /-- any of the three codes (default) -/
  | any
  /-- the code of the word written -/
  | word
  deriving DecidableEq, Repr

/-- `BRRL_R_POS` (R117, D15): where BRRL's link register field stands. -/
inductive BrrlPosition where
  /-- bits 16 to 18 (default) -/
  | bit16
  /-- bits 13 to 15 -/
  | bit13
  deriving DecidableEq, Repr

/-- `TSBX_OB_POS` (R117, D16): which of bits 16 to 19 is TSBX's output data bit. -/
inductive TsbxPosition where
  | bit16
  | bit17
  | bit18
  /-- the default -/
  | bit19
  deriving DecidableEq, Repr

/-- The field positions that could not be recovered from the manual and are parameters (R117 b and c). -/
structure Layout where
  brrl : BrrlPosition
  tsbx : TsbxPosition
  deriving DecidableEq, Repr

/-- The positions the spec takes by default, which are those of `spec/opcode_table.json`. -/
def Layout.standard : Layout := { brrl := .bit16, tsbx := .bit19 }

/-- One entry of `CRU_CONFIG` (R7, R84): a run of lines on which a module is installed, with the directions it
connects. -/
structure CruGroup where
  base : CruLine
  lines : Nat
  inputs : Bool
  outputs : Bool
  deriving DecidableEq, Repr

/-- The parameters of one installation (R7) and those the spec introduces (92_eei_decisions.md section 3). A state
carries them, no step changes them, and a statement over every state is a statement over every installation. -/
structure Config where
  /-- `MODEL` -/
  model : MachineModel
  /-- `MEM_WORDS` -/
  memWords : Nat
  /-- `PROTECT_LIMIT` -/
  protectLimit : ProtectLimit
  /-- `HAS_ARITH_OPTION` -/
  hasArithOption : Bool
  /-- `HAS_ROM_LOADER` -/
  hasRomLoader : Bool
  /-- the 256 words of the loader's read-only memory, which the manual does not list (R5 e, N33) -/
  rom : List Word
  /-- `HAS_BATTERY` -/
  hasBattery : Bool
  /-- `CRU_CONFIG` -/
  cruGroups : List CruGroup
  /-- `DMAC_PORTS` -/
  dmacPorts : Nat
  /-- `CLOCK_SWITCH_ENABLED` -/
  clockSwitchEnabled : Bool
  /-- `MEMORY_KIND` -/
  memoryKind : MemoryKind
  /-- `UC_LC_ADVANCE` -/
  ucLcAdvance : Bool
  /-- `INTERNAL_MASKED_POLICY` -/
  maskedPolicy : MaskedPolicy
  /-- which of R380 and R381 settles the latch at an internal entry; the model's own parameter (log 20) -/
  requestClearing : RequestClearing
  /-- `SETF_CB_POLICY` -/
  setfPolicy : SetfPolicy
  /-- `BRRL_LINK_UPDATED` -/
  brrlLinkUpdated : Bool
  /-- `BRRL_R_POS` and `TSBX_OB_POS` -/
  layout : Layout
  deriving DecidableEq, Repr

/-- The installation the model's reset state stands for: a 960B with 65,536 words, the standard protection limit, the
arithmetic option, a module on every CRU line, eight controllers, and every parameter of 92_eei_decisions.md
section 3 at its default. DESIGN CHOICE (log 3). -/
def Config.standard : Config where
  model := .m960B
  memWords := 65536
  protectLimit := .to007F
  hasArithOption := true
  hasRomLoader := false
  rom := []
  hasBattery := false
  cruGroups := [{ base := 0, lines := 4096, inputs := true, outputs := true }]
  dmacPorts := 8
  clockSwitchEnabled := false
  memoryKind := .semiconductor
  ucLcAdvance := true
  maskedPolicy := .hold
  requestClearing := .last
  setfPolicy := .any
  brrlLinkUpdated := true
  layout := Layout.standard

/-! The free values. Each is applied to the state's counter `freeCount`, which advances at every use, so that two
uses are independent. Nothing in Lean can evaluate them. -/

/-- A word the spec leaves at `any value`: a word read with a parity error (U1), a read of memory that is not installed
(U9), the two registers and the comparison bits after a divide that overflows (U5), a register after RESET (U10),
`MA` after LOAD (N45). -/
opaque Config.freeWord : Nat → Word

/-- A bit the spec leaves at `any value`: a CRU input line with no module (U12), `MV` after a suppressed panel
write (U6). -/
opaque Config.freeBit : Nat → Bool

/-- The comparison code SETF leaves when `SETF_CB_POLICY` is `any` (U7, D19). -/
opaque Config.freeComparison : Nat → Comparison

/-- The word the DMAC derives from its interrupt status register and stores at `0x96`; the bit assignment is not given
(R45, R386, N12). The second argument is the free counter. -/
opaque Config.dmacStatusWord : BitVec 8 → Nat → Word

end Sys2Proof
end

