-- ==== Sys2Proof/Syntax.lean ====
section
/-! DEFINITION. The 78 instructions of 30_encoding.md R118, one constructor for each row of the opcode table. -/

namespace Sys2Proof

/-- Group I address modification: the four meanings of the `x` and `*` fields (R102). -/
inductive Address where
  /-- `x` = 0, `*` = 0 -/
  | direct (n : Word)
  /-- `x` = 0, `*` = 1 -/
  | indirect (n : Word)
  /-- `x` = 1, `*` = 0 -/
  | indexed (xr : RegNo) (n : Word)
  /-- `x` = 1, `*` = 1 -/
  | indirectIndexed (xr : RegNo) (n : Word)
  deriving DecidableEq, Repr

/-- The register operand of format I-A: register number and the `#` bit (R108). -/
structure RegRef where
  alt : Bool
  r : RegNo
  deriving DecidableEq, Repr

/-- A Group II operand: a 10-bit displacement and its base register (R113, R260). -/
structure BaseRef where
  disp : BitVec 10
  base : RegNo
  deriving DecidableEq, Repr

/-- A Group III software flag: word displacement `m` and bit number `b`, bit 0 most significant (R114, R290). -/
structure FlagRef where
  m : BitVec 10
  b : Fin 16
  deriving DecidableEq, Repr

/-- One constructor for each row of `spec/opcode_table.json`, in the table's order. The names are the mnemonics in lower
case; a mnemonic's leading `*` is written `star`. -/
inductive Instr where
  -- format I-A (R103)
  | a (reg : RegRef) (adr : Address)
  | aa (reg : RegRef) (adr : Address)
  | bl (reg : RegRef) (adr : Address)
  | starBL (reg : RegRef) (adr : Address)
  | cr (reg : RegRef) (adr : Address)
  | cra (reg : RegRef) (adr : Address)
  | crl (reg : RegRef) (adr : Address)
  | crla (reg : RegRef) (adr : Address)
  | d (reg : RegRef) (adr : Address)
  | da (reg : RegRef) (adr : Address)
  | dad (reg : RegRef) (adr : Address)
  | dlax (reg : RegRef) (adr : Address)
  | drax (reg : RegRef) (adr : Address)
  | drlx (reg : RegRef) (adr : Address)
  | drrx (reg : RegRef) (adr : Address)
  | ds (reg : RegRef) (adr : Address)
  | l (reg : RegRef) (adr : Address)
  | la (reg : RegRef) (adr : Address)
  | lot (reg : RegRef) (adr : Address)
  | lota (reg : RegRef) (adr : Address)
  | m (reg : RegRef) (adr : Address)
  | ma (reg : RegRef) (adr : Address)
  | mlax (reg : RegRef) (adr : Address)
  | mrax (reg : RegRef) (adr : Address)
  | mrrx (reg : RegRef) (adr : Address)
  | n (reg : RegRef) (adr : Address)
  | na (reg : RegRef) (adr : Address)
  | or (reg : RegRef) (adr : Address)
  | ora (reg : RegRef) (adr : Address)
  | s (reg : RegRef) (adr : Address)
  | sa (reg : RegRef) (adr : Address)
  | sat (reg : RegRef) (adr : Address)
  | st (reg : RegRef) (adr : Address)
  | xor (reg : RegRef) (adr : Address)
  | xora (reg : RegRef) (adr : Address)
  -- format I-B (R104): a status bit number, or a shift count 1 to 16 (16 is coded as 0)
  | bc (bit : Fin 16) (adr : Address)
  | starBC (bit : Fin 16) (adr : Address)
  | dla (count : Nat) (adr : Address)
  | dra (count : Nat) (adr : Address)
  | drl (count : Nat) (adr : Address)
  | drr (count : Nat) (adr : Address)
  | mla (count : Nat) (adr : Address)
  | mra (count : Nat) (adr : Address)
  | mrr (count : Nat) (adr : Address)
  -- format I-C (R105)
  | b (rq : Bool) (adr : Address)
  | starB (rq : Bool) (adr : Address)
  | lds (rq : Bool) (adr : Address)
  | nop
  | ss (rq : Bool) (adr : Address)
  | ssb (rq : Bool) (adr : Address)
  | sxbs (rq : Bool) (adr : Address)
  | sxbw (rq : Bool) (adr : Address)
  | sxs (rq : Bool) (adr : Address)
  | sxw (rq : Bool) (adr : Address)
  | xs
  | xsb (rq : Bool) (adr : Address)
  | starXSB (rq : Bool) (adr : Address)
  | xw
  | xwb (rq : Bool) (adr : Address)
  | starXWB (rq : Bool) (adr : Address)
  -- format I-D (R106)
  | arb (rq : Bool) (xr : RegNo) (addend : BitVec 4) (n : Word)
  -- format I-E (R107): bits 6 to 15 whole, and the list address
  | adac (aq : BitVec 10) (n : Word)
  -- format I-F (R109)
  | stps (adr : Address)
  -- format group II (R113)
  | cm (op1 op2 : BaseRef)
  | cml (op1 op2 : BaseRef)
  | mov (op1 op2 : BaseRef)
  | brrl (link : RegNo) (target : BaseRef)
  | ami (op1 : BaseRef) (value : BitVec 13)
  | cmi (op1 : BaseRef) (value : BitVec 13)
  -- format group III (R114): `am`, operands, `v1`; a width 1 to 16 (16 is coded as 0)
  | setf (am : Bool) (flag : FlagRef) (v1 : Bool)
  | xfne (am : Bool) (flag : FlagRef) (v1 : Bool)
  | bfne (am : Bool) (flag : FlagRef) (v1 : Bool) (n : BitVec 10)
  | setb (am : Bool) (m : BitVec 10) (v1 : Bool)
  | xbne (am : Bool) (m : BitVec 10) (v1 : Bool)
  | bbne (am : Bool) (m : BitVec 10) (v1 : Bool) (n : BitVec 10)
  | tsbx (am : Bool) (m : BitVec 10) (v1 : Bool) (n : BitVec 10) (ob : Bool)
  | ldcr (am : Bool) (m : BitVec 10) (width : Nat) (n : BitVec 10)
  | stcr (am : Bool) (m : BitVec 10) (width : Nat) (n : BitVec 10)
  deriving DecidableEq, Repr

end Sys2Proof
end

