-- ==== Sys2Proof/WellFormed.lean ====
section
/-! DEFINITION. Which instructions and installations the spec admits, where their types alone do not say it. -/

namespace Sys2Proof

/-- A count that a 4-bit field can hold when 16 is coded as 0 (R104, R114, R115). -/
def countOk (c : Nat) : Bool := decide (1 ≤ c) && decide (c ≤ 16)

/-- The shift counts of format I-B and the field widths of LDCR and STCR are 1 to 16 (R200, R288); every other operand
is bounded by its type. -/
def Instr.wellFormed : Instr → Bool
  | .dla count _ => countOk count
  | .dra count _ => countOk count
  | .drl count _ => countOk count
  | .drr count _ => countOk count
  | .mla count _ => countOk count
  | .mra count _ => countOk count
  | .mrr count _ => countOk count
  | .ldcr _ _ width _ => countOk width
  | .stcr _ _ width _ => countOk width
  | .a _ _ | .aa _ _ | .bl _ _ | .starBL _ _ | .cr _ _ | .cra _ _ | .crl _ _ | .crla _ _ | .d _ _ | .da _ _
  | .dad _ _ | .dlax _ _ | .drax _ _ | .drlx _ _ | .drrx _ _ | .ds _ _ | .l _ _ | .la _ _ | .lot _ _ | .lota _ _
  | .m _ _ | .ma _ _ | .mlax _ _ | .mrax _ _ | .mrrx _ _ | .n _ _ | .na _ _ | .or _ _ | .ora _ _ | .s _ _ | .sa _ _
  | .sat _ _ | .st _ _ | .xor _ _ | .xora _ _ | .bc _ _ | .starBC _ _ | .b _ _ | .starB _ _ | .lds _ _ | .nop
  | .ss _ _ | .ssb _ _ | .sxbs _ _ | .sxbw _ _ | .sxs _ _ | .sxw _ _ | .xs | .xsb _ _ | .starXSB _ _ | .xw
  | .xwb _ _ | .starXWB _ _ | .arb _ _ _ _ | .adac _ _ | .stps _ | .cm _ _ | .cml _ _ | .mov _ _ | .brrl _ _
  | .ami _ _ | .cmi _ _ | .setf _ _ _ | .xfne _ _ _ | .bfne _ _ _ _ | .setb _ _ _ | .xbne _ _ _ | .bbne _ _ _ _
  | .tsbx _ _ _ _ _ => true

/-- `MEM_WORDS` for a model (R7): 4096 to 32,768 in steps of 4096, or 8192 to 65,536 in steps of 8192. -/
def MachineModel.memWordsOk : MachineModel → Nat → Bool
  | .m960A, w => decide (4096 ≤ w) && decide (w ≤ 32768) && w % 4096 == 0
  | .m960B, w => decide (8192 ≤ w) && decide (w ≤ 65536) && w % 8192 == 0

/-- The installations R7 admits: the memory size fits the model, at most eight controllers, and the ROM loader has its
256 words. -/
def Config.wellFormed (c : Config) : Bool :=
  c.model.memWordsOk c.memWords && decide (c.dmacPorts ≤ 8) && (!c.hasRomLoader || c.rom.length == 256)

end Sys2Proof
end

