-- ==== Sys2Proof/Decode.lean ====
section
/-! DEFINITION. Decoding (30_encoding.md R119, R120) and encoding (R102 to R114) of the 32-bit instruction pair. The pair
is `word1 * 65536 + word2`, as `spec/opcode_table.json` numbers it; the manual's bit `i` is the pair's bit `31 - i`. -/

namespace Sys2Proof

/-- Why a pair is no instruction: the three kinds of undefined operation code of R120. -/
inductive Reject where
  /-- bits 0 to 5 select nothing -/
  | operationCode (op : BitVec 6)
  /-- the `k` variant of a defined `op` selects nothing: `4800`, `6C80`, `E400`, `E880`, `EC80` -/
  | variant (op : BitVec 6) (k : Bool)
  /-- the format I-C extension (bit 8, bits 13 to 15) selects nothing -/
  | extension (op : BitVec 6) (k : Bool) (e : BitVec 3)
  deriving DecidableEq, Repr

/-! ### Fields of the pair (R102 to R115) -/

/-- bits 0-5 -/
def opField (p : DWord) : BitVec 6 := p.extractLsb' 26 6
/-- bit 6 -/
def xBit (p : DWord) : Bool := p.getLsbD 25
/-- bit 7 -/
def indBit (p : DWord) : Bool := p.getLsbD 24
/-- bit 8 -/
def kBit (p : DWord) : Bool := p.getLsbD 23
/-- bits 9-11 -/
def xrField (p : DWord) : BitVec 3 := p.extractLsb' 20 3
/-- bit 12: `#` in format I-A, `rq` in format I-C -/
def altBit (p : DWord) : Bool := p.getLsbD 19
/-- bits 13-15: `r` in format I-A, the extension in format I-C -/
def rField (p : DWord) : BitVec 3 := p.extractLsb' 16 3
/-- bits 12-15: `r` in format I-B, the addend in format I-D -/
def r4Field (p : DWord) : BitVec 4 := p.extractLsb' 16 4
/-- bits 16-31: `n` of Group I -/
def nField (p : DWord) : Word := p.extractLsb' 0 16
/-- bits 6-15: `m` of Groups II and III, and ADAC's `a` and `q` together -/
def mField (p : DWord) : BitVec 10 := p.extractLsb' 16 10
/-- bits 16-18 -/
def mbField (p : DWord) : BitVec 3 := p.extractLsb' 13 3
/-- bits 19-21 -/
def nbField (p : DWord) : BitVec 3 := p.extractLsb' 10 3
/-- bits 22-31: `n` of Groups II and III -/
def n10Field (p : DWord) : BitVec 10 := p.extractLsb' 0 10
/-- bits 19-31: `value` of format II-C -/
def valueField (p : DWord) : BitVec 13 := p.extractLsb' 0 13
/-- bits 16-19: `b` of Group III -/
def bField (p : DWord) : BitVec 4 := p.extractLsb' 12 4
/-- bit 20 -/
def v1Bit (p : DWord) : Bool := p.getLsbD 11
/-- bit 21 -/
def amBit (p : DWord) : Bool := p.getLsbD 10

/-- A 4-bit count field: 0 means 16 (R104, R115). -/
def countOf (f : BitVec 4) : Nat := if f = 0#4 then 16 else f.toNat

/-- The four meanings of `x` and `*` (R102). With `x` = 0 the `xr` field has no function (log 15). -/
def addressOf (p : DWord) : Address :=
  match xBit p, indBit p with
  | false, false => .direct (nField p)
  | false, true => .indirect (nField p)
  | true, false => .indexed (xrField p).toFin (nField p)
  | true, true => .indirectIndexed (xrField p).toFin (nField p)

/-- Format I-A's register operand (R108). -/
def regRefOf (p : DWord) : RegRef := { alt := altBit p, r := (rField p).toFin }

/-- Group II's first operand (R113). -/
def firstOperand (p : DWord) : BaseRef := { disp := mField p, base := (mbField p).toFin }

/-- Group II's second operand (R113). -/
def secondOperand (p : DWord) : BaseRef := { disp := n10Field p, base := (nbField p).toFin }

/-- Group III's software flag (R114). -/
def flagOf (p : DWord) : FlagRef := { m := mField p, b := (bField p).toFin }

/-- BRRL's link register field, at the place `BRRL_R_POS` says (R117 b). -/
def linkField (L : Layout) (p : DWord) : BitVec 3 :=
  match L.brrl with
  | .bit16 => mbField p
  | .bit13 => rField p

/-- TSBX's output data bit, at the place `TSBX_OB_POS` says (R117 c). -/
def outputBit (L : Layout) (p : DWord) : Bool :=
  match L.tsbx with
  | .bit16 => p.getLsbD 15
  | .bit17 => p.getLsbD 14
  | .bit18 => p.getLsbD 13
  | .bit19 => p.getLsbD 12

/-! ### Decoding -/

/-- Format I-C under `op` = `011100` (R119): the extension is bit 8 and bits 13-15; bit 12 is `rq` (R105). -/
def decodeTransfer (p : DWord) : Except Reject Instr :=
  match kBit p, (rField p).toNat with
  | true, 0 => .ok (.xsb (altBit p) (addressOf p))
  | true, 1 => .ok (.xwb (altBit p) (addressOf p))
  | true, 2 => .ok (.b (altBit p) (addressOf p))
  | false, 0 => .ok (.starXSB (altBit p) (addressOf p))
  | false, 1 => .ok (.starXWB (altBit p) (addressOf p))
  | false, 2 => .ok (.starB (altBit p) (addressOf p))
  | false, 4 => .ok .xs
  | false, 5 => .ok .xw
  | false, 7 => .ok .nop
  | _, _ => .error (.extension (opField p) (kBit p) (rField p))

/-- Format I-C under `op` = `011110` (R119). -/
def decodeStatusBlock (p : DWord) : Except Reject Instr :=
  match kBit p, (rField p).toNat with
  | true, 0 => .ok (.sxbs (altBit p) (addressOf p))
  | true, 1 => .ok (.sxbw (altBit p) (addressOf p))
  | true, 2 => .ok (.ssb (altBit p) (addressOf p))
  | true, 4 => .ok (.sxs (altBit p) (addressOf p))
  | true, 5 => .ok (.sxw (altBit p) (addressOf p))
  | true, 6 => .ok (.ss (altBit p) (addressOf p))
  | _, _ => .error (.extension (opField p) (kBit p) (rField p))

/-- Format I-C under `op` = `011111` (R119). -/
def decodeLoadStatus (p : DWord) : Except Reject Instr :=
  match kBit p, (rField p).toNat with
  | false, 0 => .ok (.lds (altBit p) (addressOf p))
  | _, _ => .error (.extension (opField p) (kBit p) (rField p))

/-- The operation code map of R119; every pair it does not list is an undefined operation code (R120). The optional
instructions are decoded here whether or not the board is present. -/
def decode (L : Layout) (p : DWord) : Except Reject Instr :=
  match (opField p).toNat with
  | 0x02 => .ok (.ldcr (amBit p) (mField p) (countOf (bField p)) (n10Field p))
  | 0x03 => .ok (.arb (kBit p) (xrField p).toFin (r4Field p) (nField p))
  | 0x04 => .ok (.cm (firstOperand p) (secondOperand p))
  | 0x05 => .ok (.mov (firstOperand p) (secondOperand p))
  | 0x06 => .ok (.cml (firstOperand p) (secondOperand p))
  | 0x07 => .ok (.cmi (firstOperand p) (valueField p))
  | 0x08 => .ok (.ami (firstOperand p) (valueField p))
  | 0x09 => .ok (.adac (mField p) (nField p))
  | 0x0A => .ok (.brrl (linkField L p).toFin (secondOperand p))
  | 0x0B => .ok (.stcr (amBit p) (mField p) (countOf (bField p)) (n10Field p))
  | 0x0C => .ok (.bbne (amBit p) (mField p) (v1Bit p) (n10Field p))
  | 0x0D => .ok (.setb (amBit p) (mField p) (v1Bit p))
  | 0x0E => .ok (.xbne (amBit p) (mField p) (v1Bit p))
  | 0x0F => .ok (.tsbx (amBit p) (mField p) (v1Bit p) (n10Field p) (outputBit L p))
  | 0x10 => if kBit p then .ok (.xora (regRefOf p) (addressOf p)) else .ok (.xor (regRefOf p) (addressOf p))
  | 0x11 => if kBit p then .ok (.la (regRefOf p) (addressOf p)) else .ok (.l (regRefOf p) (addressOf p))
  | 0x12 => if kBit p then .ok (.st (regRefOf p) (addressOf p)) else .error (.variant (opField p) (kBit p))
  | 0x13 => if kBit p then .ok (.aa (regRefOf p) (addressOf p)) else .ok (.a (regRefOf p) (addressOf p))
  | 0x14 => if kBit p then .ok (.sa (regRefOf p) (addressOf p)) else .ok (.s (regRefOf p) (addressOf p))
  | 0x15 => if kBit p then .ok (.lota (regRefOf p) (addressOf p)) else .ok (.lot (regRefOf p) (addressOf p))
  | 0x16 => if kBit p then .ok (.na (regRefOf p) (addressOf p)) else .ok (.n (regRefOf p) (addressOf p))
  | 0x17 => if kBit p then .ok (.ora (regRefOf p) (addressOf p)) else .ok (.or (regRefOf p) (addressOf p))
  | 0x18 => if kBit p then .ok (.mlax (regRefOf p) (addressOf p)) else .ok (.mla (countOf (r4Field p)) (addressOf p))
  | 0x19 => if kBit p then .ok (.mrax (regRefOf p) (addressOf p)) else .ok (.mra (countOf (r4Field p)) (addressOf p))
  | 0x1A => if kBit p then .ok (.mrrx (regRefOf p) (addressOf p)) else .ok (.mrr (countOf (r4Field p)) (addressOf p))
  | 0x1B => if kBit p then .error (.variant (opField p) (kBit p)) else .ok (.sat (regRefOf p) (addressOf p))
  | 0x1C => decodeTransfer p
  | 0x1D => if kBit p then .ok (.bl (regRefOf p) (addressOf p)) else .ok (.starBL (regRefOf p) (addressOf p))
  | 0x1E => decodeStatusBlock p
  | 0x1F => decodeLoadStatus p
  | 0x20 => .ok (.xfne (amBit p) (flagOf p) (v1Bit p))
  | 0x21 => .ok (.bfne (amBit p) (flagOf p) (v1Bit p) (n10Field p))
  | 0x22 => .ok (.setf (amBit p) (flagOf p) (v1Bit p))
  | 0x30 => if kBit p then .ok (.cra (regRefOf p) (addressOf p)) else .ok (.cr (regRefOf p) (addressOf p))
  | 0x31 => if kBit p then .ok (.crla (regRefOf p) (addressOf p)) else .ok (.crl (regRefOf p) (addressOf p))
  | 0x32 => if kBit p then .ok (.dlax (regRefOf p) (addressOf p)) else .ok (.dla (countOf (r4Field p)) (addressOf p))
  | 0x33 => if kBit p then .ok (.ma (regRefOf p) (addressOf p)) else .ok (.m (regRefOf p) (addressOf p))
  | 0x34 => if kBit p then .ok (.da (regRefOf p) (addressOf p)) else .ok (.d (regRefOf p) (addressOf p))
  | 0x35 => if kBit p then .ok (.drax (regRefOf p) (addressOf p)) else .ok (.dra (countOf (r4Field p)) (addressOf p))
  | 0x36 => if kBit p then .ok (.drlx (regRefOf p) (addressOf p)) else .ok (.drl (countOf (r4Field p)) (addressOf p))
  | 0x37 => if kBit p then .ok (.drrx (regRefOf p) (addressOf p)) else .ok (.drr (countOf (r4Field p)) (addressOf p))
  | 0x38 => if kBit p then .ok (.bc (r4Field p).toFin (addressOf p)) else .ok (.starBC (r4Field p).toFin (addressOf p))
  | 0x39 => if kBit p then .ok (.stps (addressOf p)) else .error (.variant (opField p) (kBit p))
  | 0x3A => if kBit p then .error (.variant (opField p) (kBit p)) else .ok (.dad (regRefOf p) (addressOf p))
  | 0x3B => if kBit p then .error (.variant (opField p) (kBit p)) else .ok (.ds (regRefOf p) (addressOf p))
  | _ => .error (.operationCode (opField p))

/-- The fourteen instructions of the arithmetic option (R3, R122). -/
def Instr.optional : Instr → Bool
  | .d _ _ | .da _ _ | .dad _ _ | .ds _ _ | .m _ _ | .ma _ _ | .dla _ _ | .dlax _ _ | .dra _ _ | .drax _ _ | .drl _ _
  | .drlx _ _ | .drr _ _ | .drrx _ _ => true
  | .a _ _ | .aa _ _ | .bl _ _ | .starBL _ _ | .cr _ _ | .cra _ _ | .crl _ _ | .crla _ _ | .l _ _ | .la _ _
  | .lot _ _ | .lota _ _ | .mlax _ _ | .mrax _ _ | .mrrx _ _ | .n _ _ | .na _ _ | .or _ _ | .ora _ _ | .s _ _
  | .sa _ _ | .sat _ _ | .st _ _ | .xor _ _ | .xora _ _ | .bc _ _ | .starBC _ _ | .mla _ _ | .mra _ _ | .mrr _ _
  | .b _ _ | .starB _ _ | .lds _ _ | .ss _ _ | .ssb _ _ | .sxbs _ _ | .sxbw _ _ | .sxs _ _ | .sxw _ _ | .xsb _ _
  | .starXSB _ _ | .xwb _ _ | .starXWB _ _ | .nop | .xs | .xw | .arb _ _ _ _ | .adac _ _ | .stps _ | .cm _ _
  | .cml _ _ | .mov _ _ | .brrl _ _ | .ami _ _ | .cmi _ _ | .setf _ _ _ | .xfne _ _ _ | .bfne _ _ _ _ | .setb _ _ _
  | .xbne _ _ _ | .bbne _ _ _ _ | .tsbx _ _ _ _ _ | .ldcr _ _ _ _ | .stcr _ _ _ _ => false

/-- The instruction a machine of this installation finds in a pair: none when the operation code is undefined for it,
which the optional ones are without the board (R120, R122, R374). -/
def decodeFor (c : Config) (p : DWord) : Option Instr :=
  match decode c.layout p with
  | .error _ => none
  | .ok i => if i.optional && !c.hasArithOption then none else some i

/-! ### Encoding. Unused bits are assembled as 0 (R121). -/

/-- A field's value at its place: `shift` is the table's, the value's weight in the pair being `2 ^ shift`. -/
def place {w : Nat} (v : BitVec w) (shift : Nat) : DWord := v.setWidth 32 <<< shift

/-- One bit. -/
def bit1 (b : Bool) : BitVec 1 := BitVec.ofBool b

/-- A register number as a 3-bit field. -/
def reg3 (r : RegNo) : BitVec 3 := BitVec.ofFin r

/-- A count 1 to 16 as a 4-bit field, 16 as 0 (R115). -/
def count4 (c : Nat) : BitVec 4 := BitVec.ofNat 4 c

/-- The `x` bit (R102). -/
def Address.x : Address → Bool
  | .direct _ => false
  | .indirect _ => false
  | .indexed _ _ => true
  | .indirectIndexed _ _ => true

/-- The `*` bit (R102). -/
def Address.ind : Address → Bool
  | .direct _ => false
  | .indirect _ => true
  | .indexed _ _ => false
  | .indirectIndexed _ _ => true

/-- The `xr` field, 0 when there is no indexing. -/
def Address.xr : Address → RegNo
  | .direct _ => 0
  | .indirect _ => 0
  | .indexed xr _ => xr
  | .indirectIndexed xr _ => xr

/-- The address field. -/
def Address.n : Address → Word
  | .direct n => n
  | .indirect n => n
  | .indexed _ n => n
  | .indirectIndexed _ n => n

/-- Group I with a 4-bit field in bits 12-15 (R102, R104, R105, R109). -/
def encodeGroup1 (op : BitVec 6) (k : Bool) (adr : Address) (low : BitVec 4) : DWord :=
  place op 26 ||| place (bit1 adr.x) 25 ||| place (bit1 adr.ind) 24 ||| place (bit1 k) 23 ||| place (reg3 adr.xr) 20
    ||| place low 16 ||| place adr.n 0

/-- Format I-A (R103). -/
def encodeIA (op : BitVec 6) (k : Bool) (reg : RegRef) (adr : Address) : DWord :=
  encodeGroup1 op k adr (((bit1 reg.alt).setWidth 4 <<< 3) ||| (reg3 reg.r).setWidth 4)

/-- Format I-C (R105): `rq`, then the extension. -/
def encodeIC (op : BitVec 6) (k : Bool) (e : BitVec 3) (rq : Bool) (adr : Address) : DWord :=
  encodeGroup1 op k adr (((bit1 rq).setWidth 4 <<< 3) ||| e.setWidth 4)

/-- Format I-D (R106). -/
def encodeID (rq : Bool) (xr : RegNo) (addend : BitVec 4) (n : Word) : DWord :=
  place 0x03#6 26 ||| place (bit1 rq) 23 ||| place (reg3 xr) 20 ||| place addend 16 ||| place n 0

/-- Format I-E (R107). -/
def encodeIE (aq : BitVec 10) (n : Word) : DWord := place 0x09#6 26 ||| place aq 16 ||| place n 0

/-- Group II (R113). -/
def encodeII (op : BitVec 6) (m : BitVec 10) (mb nb : BitVec 3) (n : BitVec 10) : DWord :=
  place op 26 ||| place m 16 ||| place mb 13 ||| place nb 10 ||| place n 0

/-- Format II-C (R113). -/
def encodeIIC (op : BitVec 6) (o : BaseRef) (value : BitVec 13) : DWord :=
  place op 26 ||| place o.disp 16 ||| place (reg3 o.base) 13 ||| place value 0

/-- Group III (R114). -/
def encodeIII (op : BitVec 6) (m : BitVec 10) (b : BitVec 4) (v1 am : Bool) (n : BitVec 10) : DWord :=
  place op 26 ||| place m 16 ||| place b 12 ||| place (bit1 v1) 11 ||| place (bit1 am) 10 ||| place n 0

/-- BRRL's first ten and next three bits, by `BRRL_R_POS` (R117 b). -/
def encodeBrrl (L : Layout) (link : RegNo) (target : BaseRef) : DWord :=
  match L.brrl with
  | .bit16 => encodeII 0x0A#6 0#10 (reg3 link) (reg3 target.base) target.disp
  | .bit13 => encodeII 0x0A#6 ((reg3 link).setWidth 10) 0#3 (reg3 target.base) target.disp

/-- TSBX's `b` field, by `TSBX_OB_POS` (R117 c). -/
def tsbxField (L : Layout) (ob : Bool) : BitVec 4 :=
  match L.tsbx with
  | .bit16 => (bit1 ob).setWidth 4 <<< 3
  | .bit17 => (bit1 ob).setWidth 4 <<< 2
  | .bit18 => (bit1 ob).setWidth 4 <<< 1
  | .bit19 => (bit1 ob).setWidth 4

/-- The pair of a well-formed instruction, from the operation codes of R118 and the layouts of R102 to R114. -/
def encode (L : Layout) : Instr → DWord
  | .a reg adr => encodeIA 0x13#6 false reg adr
  | .aa reg adr => encodeIA 0x13#6 true reg adr
  | .bl reg adr => encodeIA 0x1D#6 true reg adr
  | .starBL reg adr => encodeIA 0x1D#6 false reg adr
  | .cr reg adr => encodeIA 0x30#6 false reg adr
  | .cra reg adr => encodeIA 0x30#6 true reg adr
  | .crl reg adr => encodeIA 0x31#6 false reg adr
  | .crla reg adr => encodeIA 0x31#6 true reg adr
  | .d reg adr => encodeIA 0x34#6 false reg adr
  | .da reg adr => encodeIA 0x34#6 true reg adr
  | .dad reg adr => encodeIA 0x3A#6 false reg adr
  | .dlax reg adr => encodeIA 0x32#6 true reg adr
  | .drax reg adr => encodeIA 0x35#6 true reg adr
  | .drlx reg adr => encodeIA 0x36#6 true reg adr
  | .drrx reg adr => encodeIA 0x37#6 true reg adr
  | .ds reg adr => encodeIA 0x3B#6 false reg adr
  | .l reg adr => encodeIA 0x11#6 false reg adr
  | .la reg adr => encodeIA 0x11#6 true reg adr
  | .lot reg adr => encodeIA 0x15#6 false reg adr
  | .lota reg adr => encodeIA 0x15#6 true reg adr
  | .m reg adr => encodeIA 0x33#6 false reg adr
  | .ma reg adr => encodeIA 0x33#6 true reg adr
  | .mlax reg adr => encodeIA 0x18#6 true reg adr
  | .mrax reg adr => encodeIA 0x19#6 true reg adr
  | .mrrx reg adr => encodeIA 0x1A#6 true reg adr
  | .n reg adr => encodeIA 0x16#6 false reg adr
  | .na reg adr => encodeIA 0x16#6 true reg adr
  | .or reg adr => encodeIA 0x17#6 false reg adr
  | .ora reg adr => encodeIA 0x17#6 true reg adr
  | .s reg adr => encodeIA 0x14#6 false reg adr
  | .sa reg adr => encodeIA 0x14#6 true reg adr
  | .sat reg adr => encodeIA 0x1B#6 false reg adr
  | .st reg adr => encodeIA 0x12#6 true reg adr
  | .xor reg adr => encodeIA 0x10#6 false reg adr
  | .xora reg adr => encodeIA 0x10#6 true reg adr
  | .bc bit adr => encodeGroup1 0x38#6 true adr (BitVec.ofFin bit)
  | .starBC bit adr => encodeGroup1 0x38#6 false adr (BitVec.ofFin bit)
  | .dla count adr => encodeGroup1 0x32#6 false adr (count4 count)
  | .dra count adr => encodeGroup1 0x35#6 false adr (count4 count)
  | .drl count adr => encodeGroup1 0x36#6 false adr (count4 count)
  | .drr count adr => encodeGroup1 0x37#6 false adr (count4 count)
  | .mla count adr => encodeGroup1 0x18#6 false adr (count4 count)
  | .mra count adr => encodeGroup1 0x19#6 false adr (count4 count)
  | .mrr count adr => encodeGroup1 0x1A#6 false adr (count4 count)
  | .b rq adr => encodeIC 0x1C#6 true 2#3 rq adr
  | .starB rq adr => encodeIC 0x1C#6 false 2#3 rq adr
  | .lds rq adr => encodeIC 0x1F#6 false 0#3 rq adr
  | .nop => encodeIC 0x1C#6 false 7#3 false (.direct 0#16)
  | .ss rq adr => encodeIC 0x1E#6 true 6#3 rq adr
  | .ssb rq adr => encodeIC 0x1E#6 true 2#3 rq adr
  | .sxbs rq adr => encodeIC 0x1E#6 true 0#3 rq adr
  | .sxbw rq adr => encodeIC 0x1E#6 true 1#3 rq adr
  | .sxs rq adr => encodeIC 0x1E#6 true 4#3 rq adr
  | .sxw rq adr => encodeIC 0x1E#6 true 5#3 rq adr
  | .xs => encodeIC 0x1C#6 false 4#3 false (.direct 0#16)
  | .xsb rq adr => encodeIC 0x1C#6 true 0#3 rq adr
  | .starXSB rq adr => encodeIC 0x1C#6 false 0#3 rq adr
  | .xw => encodeIC 0x1C#6 false 5#3 false (.direct 0#16)
  | .xwb rq adr => encodeIC 0x1C#6 true 1#3 rq adr
  | .starXWB rq adr => encodeIC 0x1C#6 false 1#3 rq adr
  | .arb rq xr addend n => encodeID rq xr addend n
  | .adac aq n => encodeIE aq n
  | .stps adr => encodeGroup1 0x39#6 true adr 0#4
  | .cm op1 op2 => encodeII 0x04#6 op1.disp (reg3 op1.base) (reg3 op2.base) op2.disp
  | .cml op1 op2 => encodeII 0x06#6 op1.disp (reg3 op1.base) (reg3 op2.base) op2.disp
  | .mov op1 op2 => encodeII 0x05#6 op1.disp (reg3 op1.base) (reg3 op2.base) op2.disp
  | .brrl link target => encodeBrrl L link target
  | .ami op1 value => encodeIIC 0x08#6 op1 value
  | .cmi op1 value => encodeIIC 0x07#6 op1 value
  | .setf am flag v1 => encodeIII 0x22#6 flag.m (BitVec.ofFin flag.b) v1 am 0#10
  | .xfne am flag v1 => encodeIII 0x20#6 flag.m (BitVec.ofFin flag.b) v1 am 0#10
  | .bfne am flag v1 n => encodeIII 0x21#6 flag.m (BitVec.ofFin flag.b) v1 am n
  | .setb am m v1 => encodeIII 0x0D#6 m 0#4 v1 am 0#10
  | .xbne am m v1 => encodeIII 0x0E#6 m 0#4 v1 am 0#10
  | .bbne am m v1 n => encodeIII 0x0C#6 m 0#4 v1 am n
  | .tsbx am m v1 n ob => encodeIII 0x0F#6 m (tsbxField L ob) v1 am n
  | .ldcr am m width n => encodeIII 0x02#6 m (count4 width) false am n
  | .stcr am m width n => encodeIII 0x0B#6 m (count4 width) false am n

/-- The first word of a pair, at the lower address (R61 a). -/
def firstWord (p : DWord) : Word := p.extractLsb' 16 16

/-- The second word of a pair. -/
def secondWord (p : DWord) : Word := p.extractLsb' 0 16

/-- The pair two consecutive words make (R61 a, R100). -/
def pairOf (w1 w2 : Word) : DWord := w1 ++ w2

/-- The pair that `w` stands for when it is numbered as `spec/opcode_table.json` numbers it: `word1 * 65536 + word2`, so
that bits 31 to 26 are `op`. With fewer than 32 bits `w` is the leading bits and the rest are 0 (log 2). -/
def tablePair (nbits w : Nat) : DWord := BitVec.ofNat 32 (w * 2 ^ (32 - nbits))

/-- What the decoder, with every option and the standard field positions, reads from an instruction of the table. The two
words are laid out as memory holds them and read back, first word at the lower address. -/
def decodeTableWord (nbits w : Nat) : Option Instr :=
  decodeFor Config.standard (pairOf (firstWord (tablePair nbits w)) (secondWord (tablePair nbits w)))

end Sys2Proof
end

