-- ==== Sys2Proof/Machine/State.lean ====
section
/-! DEFINITION. The state of a Model 960 system as plain data (10_state.md R20), the outcomes a step can have beside a
next state, and the state after RESET (70_reset_and_hazards.md R420 to R423). -/

namespace Sys2Proof.Machine

/-- Memory: half-words by cell number, in the form `Memory.wf` names. The word at address `a` is the cells `2 * a` (bits
0 to 7) and `2 * a + 1` (bits 8 to 15); the machine itself addresses words only (R60, R61; log 5). -/
abbrev Memory := List Host.Cell

/-- The canonical form: cell numbers strictly rising, and no entry equal to what an unlisted cell reads as, which is 0. -/
def Memory.wf (m : Memory) : Bool :=
  decide (m.Pairwise (fun x y => x.1 < y.1)) && m.all (fun c => c.2 != 0#8)

/-- The processor's registers (R21, R25, R29, R30) and its request latch (R47 c). There is no more: no cycle counter, no time
register and no instruction counter (R393). -/
structure Cpu where
  /-- the file of sixteen: `S[r]` at `r`, `W[r]` at `8 + r`, so that index `i` is address `0x80 + i` (R21, R22) -/
  regs : Vector Word 16
  /-- Program Counter, the supervisor's location counter (R25) -/
  pc : Word
  /-- Event Counter, the worker's location counter (R25) -/
  ec : Word
  /-- Status Register (R30) -/
  st : Word
  /-- first word of the current instruction (R29) -/
  ia : Word
  /-- second word of the current instruction, then the address formed from it (R29, R110) -/
  ib : Word
  /-- `internal_pending`: an internal interrupt is requested (R376) -/
  internalPending : Bool
  deriving DecidableEq, Repr

/-- The Communications Register Unit as the processor sees it (R46, R47 a). An interval timer is a module like any other: its
lines are among these, and it interrupts through the one CRU interrupt line (R391, R393). -/
structure Cru where
  /-- the level each installed module drives on its input line -/
  inputs : CruLines
  /-- the latch of each output line -/
  outputs : CruLines
  /-- the CRU interrupt line -/
  interruptLine : Bool
  deriving DecidableEq, Repr

/-- The two status words a controller has to store at `0x98 + 2c` (R66, R386). -/
structure ControllerStatus where
  first : Word
  second : Word
  deriving DecidableEq, Repr

/-- A task that a controller has taken up from an ADAC message and has not reported complete (R76, R388). Which of the ten
bits name the controller is open (D20), so the DMAC says which one answered (log 25). -/
structure DmacTask where
  controller : Fin 8
  /-- `I<6:15>` of the ADAC -/
  request : BitVec 10
  /-- the address of its initialisation list -/
  list : Word
  deriving DecidableEq, Repr

/-- The Direct Memory Access Channel as the processor sees it (R45, R76, R385, R386). -/
structure Dmac where
  /-- the DMAC interrupt status register: bit `c` for controller `c` -/
  intStatus : BitVec 8
  /-- what each controller will store when its interrupt is recognised -/
  status : Vector ControllerStatus 8
  /-- the ADAC messages sent and not yet taken up, oldest first: `I<6:15>` and the list address (R252) -/
  activations : List (BitVec 10 × Word)
  /-- the tasks in progress: only these transfer data (R76) -/
  tasks : List DmacTask
  deriving DecidableEq, Repr

/-- What a controller reports (R386): its status words, and what they are of. -/
structure StatusReport where
  controller : Fin 8
  words : ControllerStatus
  /-- the place, among the tasks in progress, of the task reported complete; none for a change of status -/
  completes : Option Nat
  /-- the words are stored at `0x98 + 2c` at this moment; R386 allows this and the storing at the interrupt -/
  stores : Bool
  /-- the controller's interrupt line goes to 1 -/
  interrupts : Bool
  deriving DecidableEq, Repr

/-- The CLOCK switch (R43, R413); STEP is momentary. -/
inductive ClockPosition where
  | on
  | off
  | step
  deriving DecidableEq, Repr

/-- The front panel (R42 to R44, R48). -/
structure Panel where
  /-- Memory Address register -/
  ma : Word
  /-- display register -/
  display : Word
  /-- the sixteen DATA switches, leftmost switch bit 0 -/
  data : Word
  /-- LOCK/UNLOCK -/
  locked : Bool
  /-- Memory Protect Override -/
  mpo : Bool
  /-- MODE at RUN -/
  modeRun : Bool
  /-- Single-Instruction Execution -/
  sie : Bool
  /-- CLOCK -/
  clock : ClockPosition
  /-- POWER LOSS indicator latch (R44) -/
  powerLoss : Bool
  /-- the 960B's error indicator latches that are set, by number; the manual does not enumerate them (R48) -/
  errorLatches : List Nat
  deriving DecidableEq, Repr

/-- The registers a panel switch of R411 enters or displays, beside memory. -/
inductive PanelRegister where
  | pc
  | ec
  | st
  | ma
  deriving DecidableEq, Repr

/-- What the operator can do at the front panel (R410 to R413, R420, R432). -/
inductive PanelAction where
  | setData (v : Word)
  | setLocked (on : Bool)
  | setMpo (on : Bool)
  /-- the MODE switch to RUN (true) or HALT (false) -/
  | setMode (run : Bool)
  | setSie (on : Bool)
  | setClock (p : ClockPosition)
  | start
  | reset
  | load
  | enter (r : PanelRegister)
  | display (r : PanelRegister)
  | enterMd
  | displayMd
  | enterMdi
  | displayMdi
  | displayIa
  | displayIb
  deriving DecidableEq, Repr

/-- What the outage left where the spec says `unspecified` (R422, R424, R425; U10, U11): the environment supplies it, and a
statement over every schedule is over every value. -/
structure PowerUp where
  /-- the battery, where there is one, was connected and on through the outage (R425) -/
  batteryOn : Bool
  regs : Vector Word 16
  pc : Word
  ec : Word
  ia : Word
  ib : Word
  ma : Word
  display : Word
  /-- the output lines that are at 1 -/
  outputs : List CruLine
  intStatus : BitVec 8
  status : Vector ControllerStatus 8
  activations : List (BitVec 10 × Word)
  tasks : List DmacTask
  errorLatches : List Nat
  /-- memory was retained though no battery held it, as core memory is said to be (93_implementation_defined.md section 3) -/
  retained : Bool
  /-- contents of memory when it was not kept: the words that are not 0, as address and value -/
  contents : List (Word × Word)
  /-- words whose check bits are not valid when memory was not kept -/
  failing : List Word
  deriving DecidableEq, Repr

/-- Whose turn it is: the processor's, or an action of one of the other agents (R20, R76, R410; 92_eei_decisions.md
section 4). -/
inductive Turn where
  /-- the processor executes one step of R377 -/
  | cpu
  | panel (act : PanelAction)
  /-- a module drives an input line (R46) -/
  | cruInput (line : CruLine) (level : Bool)
  /-- the CRU interrupt line changes (R391) -/
  | cruInterrupt (level : Bool)
  /-- one DMAC memory cycle that writes a word, a transfer of the task at this place among those in progress (R76, R387) -/
  | dmacWrite (task : Nat) (a v : Word)
  /-- a controller reports its status (R386) -/
  | dmacReport (r : StatusReport)
  /-- the oldest activation is taken up by this controller, or answered by none (R252, D33) -/
  | dmacTake (c : Option (Fin 8))
  /-- a power loss is sensed (R373) -/
  | powerLossSensed
  /-- power goes, and the processor stops (R373) -/
  | powerOff
  /-- power is restored (R373, R424) -/
  | powerRestored (p : PowerUp)
  /-- the check bits of a memory word go bad beyond correction (R48, R372) -/
  | memoryError (a : Word)
  /-- a 960B error indicator latch is set (R48) -/
  | errorLatch (k : Nat)
  deriving DecidableEq, Repr

/-- The whole machine. -/
structure State where
  /-- the installation's parameters; no step changes them (R7) -/
  config : Config
  cpu : Cpu
  /-- memory words, as half-word cells (R60) -/
  mem : Memory
  /-- addresses, rising, of memory words whose check bits are not valid (R48) -/
  checkFails : List Nat
  cru : Cru
  dmac : Dmac
  panel : Panel
  /-- RUN (true) or HALT (false) (R49) -/
  running : Bool
  /-- power is on (R373) -/
  powered : Bool
  /-- the turns to come, first one first; when it is empty the processor has every turn. The model's own field (log 4). -/
  schedule : List Turn
  /-- how many free values have been used. The model's own field (log 6). -/
  freeCount : Nat
  deriving DecidableEq, Repr

/-- Why the machine stops. -/
inductive Fault where
  /-- Raised by the processor's turn while the power is off: the processor has stopped (R373). Safe. -/
  | powerOff
  deriving DecidableEq, Repr

/-- Why a step has no meaning. -/
inductive Refusal where
  /-- Raised by an arm of `exec` that has no meaning yet; no arm is left so. Safe. -/
  | notModelled (mnemonic : String)
  /-- Raised by the processor's turn in RUN, or by a CLOCK step pulse, when the CLOCK switch works and is not at ON: no
  architectural state is defined part way through an instruction (R413, U8). Safe. -/
  | clockSwitch
  /-- Raised by a DMAC write to `0x80` to `0x8F`, or to protected memory with the override off: what it does is not stated
  and the environment keeps away from it (U25). Safe. -/
  | dmacTarget (a : Word)
  deriving DecidableEq, Repr

/-- Right after RESET (R420, R422): `PC`, `ST`, `MA` and the display register 0, no internal request, the POWER LOSS latch
off, HALT. The rest is the model's choice: `EC`, the sixteen registers, `IA`, `IB` 0 (log 7); memory with nothing listed
(log 8); device lines and switches at 0 or off, MODE at HALT (log 9); the standard installation (log 3). -/
def State.reset : State where
  config := Config.standard
  cpu :=
    { regs := Vector.replicate 16 0#16, pc := 0#16, ec := 0#16, st := 0#16, ia := 0#16, ib := 0#16
      internalPending := false }
  mem := []
  checkFails := []
  cru := { inputs := [], outputs := [], interruptLine := false }
  dmac :=
    { intStatus := 0#8, status := Vector.replicate 8 { first := 0#16, second := 0#16 }, activations := []
      tasks := [] }
  panel :=
    { ma := 0#16, display := 0#16, data := 0#16, locked := false, mpo := false, modeRun := false, sie := false
      clock := .on, powerLoss := false, errorLatches := [] }
  running := false
  powered := true
  schedule := []
  freeCount := 0

end Sys2Proof.Machine
end

