-- ==== Sys2Proof/Machine/Ops.lean ====
section
/-! DEFINITION. The named operations over registers, memory, the status register, the CRU and the free values, and the
machine's one exception mechanism: raising an internal cause (60_exceptions.md R376), recognising a request (R377),
entering an interrupt (R380, R381) and returning from one (42_format_IC.md R224). -/

namespace Sys2Proof.Machine

/-- What a meaning answers. -/
abbrev Result := Host.Outcome State Fault Refusal

/-! ### Memory as a list of half-word cells -/

/-- The half-word a cell holds; an unlisted cell reads as 0 (log 8). -/
def Memory.readByte : Memory → Nat → Byte
  | [], _ => 0#8
  | c :: m, k => if c.1 = k then c.2 else Memory.readByte m k

/-- Put a cell before the first one of a higher number. -/
def Memory.insertCell (k : Nat) (v : Byte) : Memory → Memory
  | [] => [(k, v)]
  | c :: m => if k < c.1 then (k, v) :: c :: m else c :: Memory.insertCell k v m

/-- Write one half-word: the cell leaves the list, and enters it again unless the value is what an unlisted cell reads as. -/
def Memory.writeByte (m : Memory) (k : Nat) (v : Byte) : Memory :=
  if v = 0#8 then m.filter (fun c => c.1 != k) else Memory.insertCell k v (m.filter (fun c => c.1 != k))

/-- The word at an address. -/
def Memory.readWord (m : Memory) (a : Nat) : Word := m.readByte (2 * a) ++ m.readByte (2 * a + 1)

/-- Write the word at an address. -/
def Memory.writeWord (m : Memory) (a : Nat) (v : Word) : Memory :=
  (m.writeByte (2 * a) (upperByte v)).writeByte (2 * a + 1) (lowerByte v)

/-- Put an address into a rising list that does not hold it twice. -/
def insertAddress (a : Nat) : List Nat → List Nat
  | [] => [a]
  | b :: l => if a < b then a :: b :: l else if a = b then b :: l else b :: insertAddress a l

/-! ### Updates of one field -/

/-- Write a register of the file of sixteen. -/
def State.setReg (s : State) (i : FileIndex) (v : Word) : State :=
  { s with cpu := { s.cpu with regs := s.cpu.regs.set i.val v i.isLt } }

/-- `PC <- v` -/
def State.setPc (s : State) (v : Word) : State := { s with cpu := { s.cpu with pc := v } }

/-- `EC <- v` -/
def State.setEc (s : State) (v : Word) : State := { s with cpu := { s.cpu with ec := v } }

/-- `ST <- v`, all sixteen bits (R31, D8). -/
def State.setSt (s : State) (v : Word) : State := { s with cpu := { s.cpu with st := v } }

/-- `IA <- v` -/
def State.setIa (s : State) (v : Word) : State := { s with cpu := { s.cpu with ia := v } }

/-- `IB <- v` -/
def State.setIb (s : State) (v : Word) : State := { s with cpu := { s.cpu with ib := v } }

/-- `internal_pending <- b` -/
def State.setPending (s : State) (b : Bool) : State := { s with cpu := { s.cpu with internalPending := b } }

/-- Replace the memory list. -/
def State.setMem (s : State) (m : Memory) : State := { s with mem := m }

/-- Replace the list of words whose check bits are not valid. -/
def State.setCheckFails (s : State) (l : List Nat) : State := { s with checkFails := l }

/-- Replace the CRU. -/
def State.setCru (s : State) (c : Cru) : State := { s with cru := c }

/-- Replace the DMAC. -/
def State.setDmac (s : State) (d : Dmac) : State := { s with dmac := d }

/-- Replace the front panel. -/
def State.setPanel (s : State) (p : Panel) : State := { s with panel := p }

/-- RUN or HALT. -/
def State.setRunning (s : State) (b : Bool) : State := { s with running := b }

/-- Power on or off. -/
def State.setPowered (s : State) (b : Bool) : State := { s with powered := b }

/-- Replace the schedule. -/
def State.setSchedule (s : State) (l : List Turn) : State := { s with schedule := l }

/-- One free value has been used. -/
def State.useFree (s : State) : State := { s with freeCount := s.freeCount + 1 }

/-! ### Registers and location counters -/

/-- A register of the file of sixteen. -/
def State.reg (s : State) (i : FileIndex) : Word := s.cpu.regs[i]

/-- The place of register `r` of a mode in the file: `S[r]` at `r`, `W[r]` at `8 + r` (R22). -/
def fileIndex (m : Mode) (r : RegNo) : FileIndex :=
  match m with
  | .supervisor => ⟨r.val, Nat.lt_trans r.isLt (by decide)⟩
  | .worker => ⟨8 + r.val, Nat.add_lt_add_left r.isLt 8⟩

/-- The execution mode (R32). -/
def State.mode (s : State) : Mode := modeOf s.cpu.st

/-- `R[r]`: a register of the active mode (R12). -/
def State.active (s : State) (r : RegNo) : Word := s.reg (fileIndex s.mode r)

/-- The location counter of a mode (R25). -/
def State.lcOf (s : State) (m : Mode) : Word :=
  match m with
  | .supervisor => s.cpu.pc
  | .worker => s.cpu.ec

/-- Write the location counter of a mode. -/
def State.setLcOf (s : State) (m : Mode) (v : Word) : State :=
  match m with
  | .supervisor => s.setPc v
  | .worker => s.setEc v

/-- `LC`: the active location counter (R12). -/
def State.lc (s : State) : Word := s.lcOf s.mode

/-- `LC <- v` -/
def State.setLc (s : State) (v : Word) : State := s.setLcOf s.mode v

/-! ### Status register fields -/

/-- `ST.MI` names mode `m`. -/
def State.setMode (s : State) (m : Mode) : State := s.setSt (setBit s.cpu.st bitMI (Mode.bit m))

/-- `ST.OI <- b` -/
def State.setOverflow (s : State) (b : Bool) : State := s.setSt (setBit s.cpu.st bitOI b)

/-- `ST.CO <- b` -/
def State.setCarry (s : State) (b : Bool) : State := s.setSt (setBit s.cpu.st bitCO b)

/-- `ST<10:12> <- c` -/
def State.setComparison (s : State) (c : Comparison) : State := s.setSt (withComparison s.cpu.st c)

/-- `setCB(v)` (R36). -/
def State.setCB (s : State) (v : Word) : State := s.setComparison (compareZero v)

/-! ### Raising an internal cause (R376) -/

/-- The four internal interrupt causes (R372 to R375). -/
inductive Cause where
  /-- memory parity error -/
  | mp
  /-- change of power system status -/
  | pf
  /-- undefined code -/
  | uc
  /-- memory violation -/
  | mv
  deriving DecidableEq, Repr

/-- The cause's bit of `ST` (R30). -/
def causeBit : Cause → Nat
  | .mp => bitMP
  | .pf => bitPF
  | .uc => bitUC
  | .mv => bitMV

/-- `raise InternalInterrupt(c)`: the cause bit is set whatever `II` is; the request is latched when `II` = 0, and when
`II` = 1 as `INTERNAL_MASKED_POLICY` says (R376, R378). -/
def State.raiseInternal (s : State) (c : Cause) : State :=
  let t := s.setSt (setBit s.cpu.st (causeBit c) true)
  if bit s.cpu.st bitII then
    match s.config.maskedPolicy with
    | .hold => t.setPending true
    | .drop => t
  else t.setPending true

/-! ### Reading and writing memory and the register window (R63, R70) -/

/-- Where an address leads: to a register of the file, or to a memory word (R63). -/
inductive Place where
  | register (i : FileIndex)
  | memory (a : Nat)
  deriving DecidableEq, Repr

/-- Addresses `0x80` to `0x8F` are the register file, whatever the mode (R63). -/
def placeOf (a : Word) : Place :=
  if h : 0x80 ≤ a.toNat ∧ a.toNat < 0x90 then .register ⟨a.toNat - 0x80, by omega⟩ else .memory a.toNat

/-- The address of a register of the file (R22). -/
def regAddress (i : FileIndex) : Word := BitVec.ofNat 16 (0x80 + i.val)

/-- A memory word is installed (`MEM_WORDS`, R65). -/
def State.installed (s : State) (a : Nat) : Bool := decide (a < s.config.memWords)

/-- What an address holds: the register or the memory word. No check and no effect. -/
def State.peek (s : State) (a : Word) : Word :=
  match placeOf a with
  | .register i => s.reg i
  | .memory k => s.mem.readWord k

/-- Put a word where an address leads, with no protection check. Check bits are written with the word (R48); a word that is
not installed takes nothing (U9). -/
def State.store (s : State) (a v : Word) : State :=
  match placeOf a with
  | .register i => s.setReg i v
  | .memory k =>
    if s.installed k then
      (s.setMem (s.mem.writeWord k v)).setCheckFails (s.checkFails.filter (fun b => b != k))
    else s

/-- `MemRead(a, 1)`. A word that is not installed reads as any value (U9); a word whose check bits are not valid raises MP
and reads as any value (R372, U1). -/
def State.read (s : State) (a : Word) : Word × State :=
  match placeOf a with
  | .register i => (s.reg i, s)
  | .memory k =>
    if s.installed k then
      if s.checkFails.contains k then (Config.freeWord s.freeCount, s.useFree.raiseInternal .mp)
      else (s.mem.readWord k, s)
    else (Config.freeWord s.freeCount, s.useFree)

/-- `MemRead(a, 2)`: the word at `a` most significant, then `a + 1` modulo 2^16 (R61 b, R152 a). -/
def State.read2 (s : State) (a : Word) : DWord × State :=
  let hi := s.read a
  let lo := hi.2.read (a + 1#16)
  (joinWords hi.1 lo.1, lo.2)

/-- The highest protected address of each limit (R71). -/
def limitAddress : ProtectLimit → Word
  | .to007F => 0x007F#16
  | .to00FF => 0x00FF#16
  | .to01FF => 0x01FF#16
  | .to03FF => 0x03FF#16
  | .to07FF => 0x07FF#16
  | .to0FFF => 0x0FFF#16
  | .to1FFF => 0x1FFF#16
  | .to3FFF => 0x3FFF#16
  | .to7FFF => 0x7FFF#16
  | .toFFFF => 0xFFFF#16

/-- `protected(a)`: at or below the limit, and not in `0x80` to `0xA7` (R70). -/
def State.isProtected (s : State) (a : Word) : Bool :=
  decide (a.toNat ≤ (limitAddress s.config.protectLimit).toNat) && !(decide (0x80 ≤ a.toNat) && decide (a.toNat ≤ 0xA7))

/-- A write to `a` is suppressed: protected, and the override off (R70, R72). -/
def State.blocked (s : State) (a : Word) : Bool := s.isProtected a && !s.panel.mpo

/-- `MemWrite(a, 1, v)`: a suppressed write raises MV and stores nothing (R70, R375). -/
def State.write (s : State) (a v : Word) : State :=
  if s.blocked a then s.raiseInternal .mv else s.store a v

/-- `MemWrite(a, 2, v)`: each word goes through the window and the check separately (R152 a). -/
def State.write2 (s : State) (a : Word) (v : DWord) : State :=
  (s.write a (highWord v)).write (a + 1#16) (lowWord v)

/-! ### Register pairs (R64, R152 b) -/

/-- `Reg : Reg2`: the second half is the word at the register's address plus one, as memory. -/
def State.readPair (s : State) (i : FileIndex) : DWord × State :=
  let lo := s.read (regAddress i + 1#16)
  (joinWords (s.reg i) lo.1, lo.2)

/-- `Reg <- v<0:15> ; Reg2 <- v<16:31>`. -/
def State.writePair (s : State) (i : FileIndex) (v : DWord) : State :=
  (s.setReg i (highWord v)).write (regAddress i + 1#16) (lowWord v)

/-! ### The CRU lines (R46, R82, R390) -/

/-- A module of the group is at this line; line addresses wrap (R83). -/
def groupCovers (g : CruGroup) (line : CruLine) : Bool := decide ((line - g.base).toNat < g.lines)

/-- A module drives this input line. -/
def State.hasInput (s : State) (line : CruLine) : Bool :=
  s.config.cruGroups.any (fun g => g.inputs && groupCovers g line)

/-- A module takes this output line. -/
def State.hasOutput (s : State) (line : CruLine) : Bool :=
  s.config.cruGroups.any (fun g => g.outputs && groupCovers g line)

/-- The level of one line. -/
def lineLevel (l : CruLines) (line : CruLine) : Bool := l.contains line.toNat

/-- Set one line. -/
def setLine (l : CruLines) (line : CruLine) (b : Bool) : CruLines :=
  if b then insertAddress line.toNat l else l.filter (fun k => k != line.toNat)

/-- The levels when these lines are at 1 and no other. -/
def linesAt (l : List CruLine) : CruLines := l.foldl (fun m a => setLine m a true) []

/-- `CruIn(a)`: the level the module drives; with no module any value, one bit each time (R390, U12). -/
def State.cruIn (s : State) (line : CruLine) : Bool × State :=
  if s.hasInput line then (lineLevel s.cru.inputs line, s) else (Config.freeBit s.freeCount, s.useFree)

/-- `CruOut(a, v)`: the output latch takes the value; with no module no effect (R390, U12). -/
def State.cruOut (s : State) (line : CruLine) (b : Bool) : State :=
  if s.hasOutput line then s.setCru { s.cru with outputs := setLine s.cru.outputs line b } else s

/-! ### Status blocks, and the return from an interrupt -/

/-- `MemWrite(EA, 1, counter)`, `MemWrite(EA + 1, 1, ST)` (R221, R226). -/
def State.storeStatusBlock (s : State) (ea counter : Word) : State :=
  let t := s.write ea counter
  t.write (ea + 1#16) t.cpu.st

/-- LDS, which is also the return from an interrupt (R224, R382, R383): the counter of the mode that executes it takes the
first word plus the bias, then `ST` takes the whole second word. Both words are read first (D30). -/
def State.loadStatusBlock (s : State) (ea bias : Word) : State :=
  let counter := s.read ea
  let status := counter.2.read (ea + 1#16)
  (status.2.setLc (counter.1 + bias)).setSt status.1

/-! ### Interrupts: recognition and entry -/

/-- The three levels (R370). None is a timer's: the processor has no timer interrupt of its own (R393). -/
inductive Level where
  | internal
  | cru
  | dmac
  deriving DecidableEq, Repr

/-- The level's location (R371). -/
def locationOf : Level → Word
  | .internal => 0x90#16
  | .cru => 0x94#16
  | .dmac => 0x92#16

/-- The DMAC interrupt line: some bit of the status register is 1 (R386). -/
def State.dmacLine (s : State) : Bool := s.dmac.intStatus != 0#8

/-- The request a sample takes, in the order of priority (R377). -/
def State.requested (s : State) : Option Level :=
  if s.cpu.internalPending && !bit s.cpu.st bitII then some .internal
  else if s.cru.interruptLine && !bit s.cpu.st bitCI then some .cru
  else if s.dmacLine && !bit s.cpu.st bitDI then some .dmac
  else none

/-- The last step of an entry (R381 step 3): the masks, and for the internal level the request leaves its latch, where the
parameter says that it does so here (log 20). -/
def State.maskAfter (s : State) (v : Level) : State :=
  match v with
  | .internal =>
    let t := s.setSt (setBit (setBit (setBit s.cpu.st bitII true) bitDI true) bitCI true)
    match s.config.requestClearing with
    | .last => t.setPending false
    | .first => t
  | .cru => s.setSt (setBit (setBit s.cpu.st bitDI true) bitCI true)
  | .dmac => s.setSt (setBit s.cpu.st bitDI true)

/-- The address of controller `c`'s status words, `0x98 + 2c` (R66). -/
def controllerAddress (c : Fin 8) : Word := BitVec.ofNat 16 (0x98 + 2 * c.val)

/-- A controller's two words at its place; the DMAC's stores meet no protection check (R386). -/
def State.storeStatusWords (s : State) (c : Fin 8) (words : ControllerStatus) : State :=
  (s.store (controllerAddress c) words.first).store (controllerAddress c + 1#16) words.second

/-- Controller `c` stores its two words if its interrupt bit is set (R386). -/
def State.storeController (s : State) (c : Fin 8) : State :=
  if s.dmac.intStatus.getLsbD c.val then s.storeStatusWords c s.dmac.status[c] else s

/-- All controllers. -/
def controllers : List (Fin 8) := [0, 1, 2, 3, 4, 5, 6, 7]

/-- The DMAC's answer to the interrupt recognized signal: its word at `0x96`, the words of every controller that
interrupted, and their bits cleared (R386, R381 step 1). -/
def State.storeDmacStatus (s : State) : State :=
  let t := (s.store 0x96#16 (Config.dmacStatusWord s.dmac.intStatus s.freeCount)).useFree
  let u := controllers.foldl State.storeController t
  u.setDmac { u.dmac with intStatus := 0#8 }

/-- What recognising a level does before its location is executed: the DMAC stores its status words (R381 step 1, R386); the
internal request leaves its latch here only where the parameter says so (log 20). -/
def State.recognise (s : State) (v : Level) : State :=
  match v with
  | .internal =>
    match s.config.requestClearing with
    | .last => s
    | .first => s.setPending false
  | .cru => s
  | .dmac => s.storeDmacStatus

/-- Read the two words of an instruction into `IA` and `IB` (R26, R380). -/
def State.fetch (s : State) (a : Word) : DWord × State :=
  let w1 := s.read a
  let w2 := w1.2.read (a + 1#16)
  (pairOf w1.1 w2.1, (w2.2.setIa w1.1).setIb w2.1)

/-- The last step follows where the location's instruction gave a next state. -/
def finishEntry (v : Level) : Result → Result
  | .next t => .next (t.maskAfter v)
  | .fault r => .fault r
  | .refused r => .refused r

/-- Execute the instruction in the level's location, with the counter not advanced; an undefined code there raises UC
(R380). A meaning is run with `LC` standing for the updated counter and `LC - 2` for the instruction's own address. -/
def State.runLocation (run : Instr → State → Result) (s : State) (v : Level) : Result :=
  let f := s.fetch (locationOf v)
  match decodeFor f.2.config f.1 with
  | none => .next (f.2.raiseInternal .uc)
  | some i => run i f.2

/-- TAKING AN INTERRUPT, complete (R381): nothing is saved and no mode changed but by the instruction in the location; the
masks are set last. -/
def State.takeInterrupt (run : Instr → State → Result) (s : State) (v : Level) : Result :=
  finishEntry v ((s.recognise v).runLocation run v)

/-- An undefined operation code met through the location counter: UC, and the counter past the pair when
`UC_LC_ADVANCE` (R374). -/
def State.undefinedCode (s : State) : State :=
  (if s.config.ucLcAdvance then s.setLc (s.lc + 2#16) else s).raiseInternal .uc

/-- Fetch through the location counter, advance it, execute (R26, R374). -/
def State.runNext (run : Instr → State → Result) (s : State) : Result :=
  let f := s.fetch s.lc
  match decodeFor f.2.config f.1 with
  | none => .next f.2.undefinedCode
  | some i => run i (f.2.setLc (f.2.lc + 2#16))

/-- One step of R377: the sample, then an interrupt entry or one instruction. -/
def State.cpuStep (run : Instr → State → Result) (s : State) : Result :=
  match s.requested with
  | some v => s.takeInterrupt run v
  | none => s.runNext run

end Sys2Proof.Machine
end

