-- ==== Sys2Proof/Machine/Operands.lean ====
section
/-! DEFINITION. Operands: the effective address of Group I (30_encoding.md R110), the register operand (R108), the base
register addresses of Groups II and III (R260, R280), and the shared ways in which results are written. -/

namespace Sys2Proof.Machine

/-- An effective address and the state after it is formed: the reads of indirection, and `IB` (R29). -/
structure Formed where
  ea : Word
  after : State
  deriving DecidableEq, Repr

/-- An effective operand with its address and the state after it is read. -/
structure Fetched where
  ea : Word
  eo : Word
  after : State
  deriving DecidableEq, Repr

/-- A double-length operand with its address and the state after both words are read (R152 a). -/
structure Fetched2 where
  ea : Word
  eo : DWord
  after : State
  deriving DecidableEq, Repr

/-! ### Group I -/

/-- `IB` holds the address being formed (R29); at the end of address formation that is `EA`. -/
def formed (r : Word × State) : Formed := { ea := r.1, after := r.2.setIb r.1 }

/-- `EA` (R110). The index register is of the active mode; sums are modulo 2^16 (R27). -/
def State.effectiveAddress (s : State) (preindex : Bool) : Address → Formed
  | .direct n => formed (n, s)
  | .indirect n => formed (s.read n)
  | .indexed xr n => formed (n + s.active xr, s)
  | .indirectIndexed xr n =>
    if preindex then formed (s.read (n + s.active xr))
    else formed ((s.read n).1 + s.active xr, (s.read n).2)

/-- `preindex` is true when `ST.IM` = 0 (R110). -/
def State.preindex (s : State) : Bool := !bit s.cpu.st bitIM

/-- `EA` in the order `ST.IM` selects. -/
def State.form (s : State) (adr : Address) : Formed := s.effectiveAddress s.preindex adr

/-- `EA` for *B, *BC and *BL, which always pre-index (R110, R223). -/
def State.formPre (s : State) (adr : Address) : Formed := s.effectiveAddress true adr

/-- `EO = MemRead(EA, 1)` (R110). -/
def Formed.operand (f : Formed) : Fetched :=
  { ea := f.ea, eo := (f.after.read f.ea).1, after := (f.after.read f.ea).2 }

/-- `MemRead(EA, 2)` (R152 a). -/
def Formed.operand2 (f : Formed) : Fetched2 :=
  { ea := f.ea, eo := (f.after.read2 f.ea).1, after := (f.after.read2 f.ea).2 }

/-- `EA` and `EO` of an ordinary instruction. -/
def State.operand (s : State) (adr : Address) : Fetched := (s.form adr).operand

/-- `EA` and `EO` with pre-indexing forced. -/
def State.operandPre (s : State) (adr : Address) : Fetched := (s.formPre adr).operand

/-- `EA` and the double word there. -/
def State.operand2 (s : State) (adr : Address) : Fetched2 := (s.form adr).operand2

/-- The place of `Reg`: the active mode's register, or the inactive mode's with `#` (R108). -/
def State.regOf (s : State) (reg : RegRef) : FileIndex :=
  fileIndex (if reg.alt then otherMode s.mode else s.mode) reg.r

/-- `rq ? R[5] : 0` for the register 5 of a mode (R221). -/
def State.bias (s : State) (rq : Bool) (m : Mode) : Word := if rq then s.reg (fileIndex m 5) else 0#16

/-! ### Groups II and III -/

/-- `A1`, `A2`: displacement plus a base register of the active mode (R260). -/
def State.baseAddress (s : State) (o : BaseRef) : Word := extend10 o.disp + s.active o.base

/-- `B[i]`: the operand base register, of the inactive mode when `am` = 1 (R280). -/
def State.operandBase (s : State) (am : Bool) (i : RegNo) : Word :=
  s.reg (fileIndex (if am then otherMode s.mode else s.mode) i)

/-- `FlagAddr` (R280). -/
def State.flagAddress (s : State) (am : Bool) (m : BitVec 10) : Word := extend10 m + s.operandBase am 6

/-- `CruAddr(f)` (R280, R83). -/
def State.cruAddress (s : State) (am : Bool) (f : BitVec 10) : CruLine := lineOf (extend10 f + s.operandBase am 7)

/-- `DataAddr` (R280). -/
def State.dataAddress (s : State) (am : Bool) (n : BitVec 10) : Word := extend10 n + s.operandBase am 4

/-- `BranchTarget`: always the active mode's register 5 (R280). -/
def State.branchTarget (s : State) (n : BitVec 10) : Word := extend10 n + s.active 5

/-! ### Ways a result is written -/

/-- A result to a register, and the comparison bits from it. -/
def State.putResult (s : State) (i : FileIndex) (v : Word) : State := (s.setReg i v).setCB v

/-- A sum or difference to a register, with `OI`, `CO` and the comparison bits (R153, R182). -/
def State.putSum (s : State) (i : FileIndex) (r : Sum) : State :=
  (((s.setReg i r.value).setOverflow r.overflow).setCarry r.carry).setCB r.value

/-- A product to a register pair, its high half tested (R173). -/
def State.putProduct (s : State) (i : FileIndex) (p : DWord) : State := (s.writePair i p).setCB (highWord p)

/-- A double-length sum to a register pair, `OI`, and its high half tested (R163). -/
def State.putSum2 (s : State) (i : FileIndex) (r : DoubleSum) : State :=
  ((s.writePair i r.value).setOverflow r.overflow).setCB (highWord r.value)

/-- `ST<10:12>` takes any value: three free bits (U5). -/
def State.freeCB (s : State) : State :=
  let v := Config.freeWord s.freeCount
  s.useFree.setSt (setBit (setBit (setBit s.cpu.st bitGT (bit v bitGT)) bitEQ (bit v bitEQ)) bitLT (bit v bitLT))

/-- What a divide writes (R161): remainder to `Reg`, quotient to `Reg2`, `OI` = 0 and the remainder tested; on overflow or
a zero divisor `OI` = 1 and the pair and the comparison bits take any value (D13, U5). -/
def State.putQuotient (s : State) (i : FileIndex) (q : Option Quotient) : State :=
  match q with
  | some r => ((s.writePair i (joinWords r.remainder r.quotient)).setOverflow false).setCB r.remainder
  | none =>
    let t := s.setOverflow true
    let v := joinWords (Config.freeWord t.freeCount) (Config.freeWord (t.freeCount + 1))
    (t.useFree.useFree.writePair i v).freeCB

/-- A result to memory, and the comparison bits from it. -/
def State.storeResult (s : State) (a v : Word) : State := (s.write a v).setCB v

/-- A left shift's result to memory, `OI` and the comparison bits (R175, R207). -/
def State.storeShift (s : State) (a v : Word) (ov : Bool) : State := ((s.write a v).setOverflow ov).setCB v

/-- A double-length result to memory, its high half tested. -/
def State.storeResult2 (s : State) (a : Word) (v : DWord) : State := (s.write2 a v).setCB (highWord v)

/-- A double-length left shift's result to memory, `OI`, and its high half tested (R164, R203). -/
def State.storeShift2 (s : State) (a : Word) (v : DWord) (ov : Bool) : State :=
  ((s.write2 a v).setOverflow ov).setCB (highWord v)

/-- A comparison of three outcomes ends at the next instruction, or skips one or two (R261). -/
def State.skip (s : State) (c : Comparison) : State :=
  match c with
  | .less => s
  | .greater => s.setLc (s.lc + 2#16)
  | .equal => s.setLc (s.lc + 4#16)

/-- A forced mode change that leaves the counter at the instruction's own address, which is `LC - 2` (R282, R380). -/
def State.switchMode (s : State) : State := (s.setLc (s.lc - 2#16)).setMode (otherMode s.mode)

/-- A flag or input line tested: in sequence when it equals `v1`, else a mode change (R282, R285, R291). -/
def State.switchUnless (s : State) (f v1 : Bool) : State := if f == v1 then s else s.switchMode

/-- A flag or input line tested: in sequence when it equals `v1`, else a branch (R283, R286, R291). -/
def State.branchUnless (s : State) (f v1 : Bool) (target : Word) : State := if f == v1 then s else s.setLc target

/-- Line `k` of a field that starts at `base` (R83). -/
def fieldLine (base : CruLine) (k : Nat) : CruLine := base + BitVec.ofNat 12 k

/-- The first `k` lines of a field take the low bits of `w`, line 0 first (R288). -/
def State.putField (s : State) (base : CruLine) (w : Word) : Nat → State
  | 0 => s
  | k + 1 => (s.putField base w k).cruOut (fieldLine base k) (bit w (15 - k))

/-- The first `k` lines of a field read into the low bits of a word, line 0 first (R289). -/
def State.getField (s : State) (base : CruLine) : Nat → Word × State
  | 0 => (0#16, s)
  | k + 1 =>
    let low := s.getField base k
    let line := low.2.cruIn (fieldLine base k)
    (setBit low.1 (15 - k) line.1, line.2)

/-- A field of `width` bits with its top bit copied to every bit at its left (R289). -/
def extendField (v : Word) (width : Nat) : Word := shiftRightArith (v <<< (16 - width)) (16 - width)

end Sys2Proof.Machine
end

