-- ==== Sys2Proof/Machine/FormatIA.lean ====
section
/-! DEFINITION. Meanings of the 35 format I-A instructions (40_format_IA.md). On entry `LC` is the updated counter, so that the
instruction's own address is `LC - 2` (10_state.md R26, 60_exceptions.md R380). Whether an optional instruction exists is
settled at decode (R122). -/

namespace Sys2Proof.Machine

/-- L, Load Register (R169). -/
def execL (reg : RegRef) (adr : Address) (s : State) : Result :=
  let o := s.operand adr
  .next (o.after.putResult (s.regOf reg) o.eo)

/-- LA, Load Register with Address (R170). -/
def execLA (reg : RegRef) (adr : Address) (s : State) : Result :=
  let f := s.form adr
  .next (f.after.putResult (s.regOf reg) f.ea)

/-- LOT, Load Ones Tally (R171). -/
def execLOT (reg : RegRef) (adr : Address) (s : State) : Result :=
  let o := s.operand adr
  .next (o.after.putResult (s.regOf reg) (BitVec.ofNat 16 (popcount o.eo)))

/-- LOTA, Load Ones Tally of Address (R172). -/
def execLOTA (reg : RegRef) (adr : Address) (s : State) : Result :=
  let f := s.form adr
  .next (f.after.putResult (s.regOf reg) (BitVec.ofNat 16 (popcount f.ea)))

/-- ST, Store Register (R185). -/
def execST (reg : RegRef) (adr : Address) (s : State) : Result :=
  let f := s.form adr
  .next (f.after.storeResult f.ea (f.after.reg (s.regOf reg)))

/-- A, Add to Register (R153). -/
def execA (reg : RegRef) (adr : Address) (s : State) : Result :=
  let o := s.operand adr
  .next (o.after.putSum (s.regOf reg) (add16 (o.after.reg (s.regOf reg)) o.eo))

/-- S, Subtract from Register (R182). -/
def execS (reg : RegRef) (adr : Address) (s : State) : Result :=
  let o := s.operand adr
  .next (o.after.putSum (s.regOf reg) (sub16 (o.after.reg (s.regOf reg)) o.eo))

/-- AA, Add Address to Register (R154). -/
def execAA (reg : RegRef) (adr : Address) (s : State) : Result :=
  let f := s.form adr
  .next (f.after.putSum (s.regOf reg) (add16 (f.after.reg (s.regOf reg)) f.ea))

/-- SA, Subtract Address from Register (R183). -/
def execSA (reg : RegRef) (adr : Address) (s : State) : Result :=
  let f := s.form adr
  .next (f.after.putSum (s.regOf reg) (sub16 (f.after.reg (s.regOf reg)) f.ea))

/-- CR, Compare Register with Memory (R157). -/
def execCR (reg : RegRef) (adr : Address) (s : State) : Result :=
  let o := s.operand adr
  .next (o.after.setComparison (compareSigned (o.after.reg (s.regOf reg)) o.eo))

/-- CRL, Compare Register with Memory (Logical) (R159). -/
def execCRL (reg : RegRef) (adr : Address) (s : State) : Result :=
  let o := s.operand adr
  .next (o.after.setComparison (compareLogical (o.after.reg (s.regOf reg)) o.eo))

/-- CRA, Compare Register with Effective Address (R158). -/
def execCRA (reg : RegRef) (adr : Address) (s : State) : Result :=
  let f := s.form adr
  .next (f.after.setComparison (compareSigned (f.after.reg (s.regOf reg)) f.ea))

/-- CRLA, Compare Register with Effective Address (Logical) (R160). -/
def execCRLA (reg : RegRef) (adr : Address) (s : State) : Result :=
  let f := s.form adr
  .next (f.after.setComparison (compareLogical (f.after.reg (s.regOf reg)) f.ea))

/-- N, Logical AND (R178). -/
def execN (reg : RegRef) (adr : Address) (s : State) : Result :=
  let o := s.operand adr
  .next (o.after.putResult (s.regOf reg) (o.after.reg (s.regOf reg) &&& o.eo))

/-- OR, Logical OR (R180). -/
def execOr (reg : RegRef) (adr : Address) (s : State) : Result :=
  let o := s.operand adr
  .next (o.after.putResult (s.regOf reg) (o.after.reg (s.regOf reg) ||| o.eo))

/-- XOR, Exclusive OR (R186). -/
def execXor (reg : RegRef) (adr : Address) (s : State) : Result :=
  let o := s.operand adr
  .next (o.after.putResult (s.regOf reg) (o.after.reg (s.regOf reg) ^^^ o.eo))

/-- NA, Logical AND with Address (R179). -/
def execNA (reg : RegRef) (adr : Address) (s : State) : Result :=
  let f := s.form adr
  .next (f.after.putResult (s.regOf reg) (f.after.reg (s.regOf reg) &&& f.ea))

/-- ORA, Logical OR with Address (R181). -/
def execOrA (reg : RegRef) (adr : Address) (s : State) : Result :=
  let f := s.form adr
  .next (f.after.putResult (s.regOf reg) (f.after.reg (s.regOf reg) ||| f.ea))

/-- XORA, Exclusive OR with Address (R187). -/
def execXorA (reg : RegRef) (adr : Address) (s : State) : Result :=
  let f := s.form adr
  .next (f.after.putResult (s.regOf reg) (f.after.reg (s.regOf reg) ^^^ f.ea))

/-- BL, Branch and Link: the link is the address of the BL itself (R155). -/
def execBL (reg : RegRef) (adr : Address) (s : State) : Result :=
  let f := s.form adr
  .next ((f.after.setReg (s.regOf reg) (f.after.lc - 2#16)).setLc f.ea)

/-- *BL, Branch Indirect and Link (R156). -/
def execStarBL (reg : RegRef) (adr : Address) (s : State) : Result :=
  let o := s.operandPre adr
  .next ((o.after.setReg (s.regOf reg) (o.after.lc - 2#16)).setLc o.eo)

/-- SAT, Shift and Add Tally of Leading Zeros (R184): the shifted word is stored, then the tally is added; `OI` is not
written. -/
def execSAT (reg : RegRef) (adr : Address) (s : State) : Result :=
  let o := s.operand adr
  let t := clz16 o.eo
  let u := o.after.write o.ea ((o.eo <<< t) &&& 0x7FFF#16)
  let r := add16 (u.reg (s.regOf reg)) (BitVec.ofNat 16 t)
  .next (((u.setReg (s.regOf reg) r.value).setCarry r.carry).setCB r.value)

/-- MLAX, Shift Memory Left Arithmetic, Count in Register r (R175). -/
def execMLAX (reg : RegRef) (adr : Address) (s : State) : Result :=
  let o := s.operand adr
  let c := count16 (o.after.reg (s.regOf reg))
  .next (o.after.storeShift o.ea (o.eo <<< c) (shiftOverflow o.eo c))

/-- MRAX, Shift Memory Right Arithmetic, Count in Register r (R176). -/
def execMRAX (reg : RegRef) (adr : Address) (s : State) : Result :=
  let o := s.operand adr
  .next (o.after.storeResult o.ea (shiftRightArith o.eo (count16 (o.after.reg (s.regOf reg)))))

/-- MRRX, Rotate Memory Right Logical, Count in Register r (R177). -/
def execMRRX (reg : RegRef) (adr : Address) (s : State) : Result :=
  let o := s.operand adr
  .next (o.after.storeResult o.ea (rotateRight o.eo (count16 (o.after.reg (s.regOf reg)))))

/-- M, Multiply (R173). -/
def execM (reg : RegRef) (adr : Address) (s : State) : Result :=
  let o := s.operand adr
  .next (o.after.putProduct (s.regOf reg) (multiply (o.after.reg (s.regOf reg)) o.eo))

/-- MA, Multiply Immediate (R174). -/
def execMA (reg : RegRef) (adr : Address) (s : State) : Result :=
  let f := s.form adr
  .next (f.after.putProduct (s.regOf reg) (multiply (f.after.reg (s.regOf reg)) f.ea))

/-- D, Divide (R161). -/
def execD (reg : RegRef) (adr : Address) (s : State) : Result :=
  let o := s.operand adr
  let p := o.after.readPair (s.regOf reg)
  .next (p.2.putQuotient (s.regOf reg) (divide p.1 o.eo))

/-- DA, Divide Immediate (R162). -/
def execDA (reg : RegRef) (adr : Address) (s : State) : Result :=
  let f := s.form adr
  let p := f.after.readPair (s.regOf reg)
  .next (p.2.putQuotient (s.regOf reg) (divide p.1 f.ea))

/-- DAD, Double Add (R163). -/
def execDAD (reg : RegRef) (adr : Address) (s : State) : Result :=
  let o := s.operand2 adr
  let p := o.after.readPair (s.regOf reg)
  .next (p.2.putSum2 (s.regOf reg) (add32 p.1 o.eo))

/-- DS, Double Subtract (R168). -/
def execDS (reg : RegRef) (adr : Address) (s : State) : Result :=
  let o := s.operand2 adr
  let p := o.after.readPair (s.regOf reg)
  .next (p.2.putSum2 (s.regOf reg) (sub32 p.1 o.eo))

/-- DLAX, Shift Memory Double Left Arithmetic, Count in Register r (R164). -/
def execDLAX (reg : RegRef) (adr : Address) (s : State) : Result :=
  let o := s.operand2 adr
  let c := count32 (o.after.reg (s.regOf reg))
  .next (o.after.storeShift2 o.ea (o.eo <<< c) (shiftOverflow o.eo c))

/-- DRAX, Shift Memory Double Right Arithmetic, Count in Register r (R165). -/
def execDRAX (reg : RegRef) (adr : Address) (s : State) : Result :=
  let o := s.operand2 adr
  .next (o.after.storeResult2 o.ea (shiftRightArith o.eo (count32 (o.after.reg (s.regOf reg)))))

/-- DRLX, Shift Memory Double Right Logical, Count in Register r (R166). -/
def execDRLX (reg : RegRef) (adr : Address) (s : State) : Result :=
  let o := s.operand2 adr
  .next (o.after.storeResult2 o.ea (shiftRightLogical o.eo (count32 (o.after.reg (s.regOf reg)))))

/-- DRRX, Double Right Rotate, Count in Register r (R167). -/
def execDRRX (reg : RegRef) (adr : Address) (s : State) : Result :=
  let o := s.operand2 adr
  .next (o.after.storeResult2 o.ea (rotateRight o.eo (count32 (o.after.reg (s.regOf reg)))))

end Sys2Proof.Machine
end

