-- ==== Sys2Proof/Machine/FormatIB.lean ====
section
/-! DEFINITION. Meanings of the nine format I-B instructions (41_format_IB.md). On entry `LC` is the updated counter. -/

namespace Sys2Proof.Machine

/-- BC, Branch on Condition (R201). `EA` is formed whether or not the branch is taken. -/
def execBC (r : Fin 16) (adr : Address) (s : State) : Result :=
  let f := s.form adr
  .next (if bit f.after.cpu.st r.val then f.after.setLc f.ea else f.after)

/-- *BC, Branch on Condition Indirect (R202). Both reads are made in either case (D31); the bit is tested as it stands when
`EA` is formed (log 21). -/
def execStarBC (r : Fin 16) (adr : Address) (s : State) : Result :=
  let f := s.formPre adr
  let o := f.operand
  .next (if bit f.after.cpu.st r.val then o.after.setLc o.eo else o.after)

/-- MLA, Shift Memory Left Arithmetic (R207). -/
def execMLA (count : Nat) (adr : Address) (s : State) : Result :=
  let o := s.operand adr
  .next (o.after.storeShift o.ea (o.eo <<< count) (shiftOverflow o.eo count))

/-- MRA, Shift Memory Right Arithmetic (R208). -/
def execMRA (count : Nat) (adr : Address) (s : State) : Result :=
  let o := s.operand adr
  .next (o.after.storeResult o.ea (shiftRightArith o.eo count))

/-- MRR, Rotate Memory Right Logical (R209). -/
def execMRR (count : Nat) (adr : Address) (s : State) : Result :=
  let o := s.operand adr
  .next (o.after.storeResult o.ea (rotateRight o.eo count))

/-- DLA, Shift Memory Double Left Arithmetic (R203). -/
def execDLA (count : Nat) (adr : Address) (s : State) : Result :=
  let o := s.operand2 adr
  .next (o.after.storeShift2 o.ea (o.eo <<< count) (shiftOverflow o.eo count))

/-- DRA, Shift Memory Double Right Arithmetic (R204). -/
def execDRA (count : Nat) (adr : Address) (s : State) : Result :=
  let o := s.operand2 adr
  .next (o.after.storeResult2 o.ea (shiftRightArith o.eo count))

/-- DRL, Shift Memory Double Right Logical (R205). -/
def execDRL (count : Nat) (adr : Address) (s : State) : Result :=
  let o := s.operand2 adr
  .next (o.after.storeResult2 o.ea (shiftRightLogical o.eo count))

/-- DRR, Double Right Rotate (R206). -/
def execDRR (count : Nat) (adr : Address) (s : State) : Result :=
  let o := s.operand2 adr
  .next (o.after.storeResult2 o.ea (rotateRight o.eo count))

end Sys2Proof.Machine
end

