-- ==== Sys2Proof/Machine/FormatIC.lean ====
section
/-! DEFINITION. Meanings of the sixteen format I-C instructions (42_format_IC.md). On entry the counter of the mode `M` that
executes the instruction is the updated one (R220); in an interrupt location it is the counter as it stands (R380). -/

namespace Sys2Proof.Machine

/-- B, Unconditional Branch (R222). -/
def execB (rq : Bool) (adr : Address) (s : State) : Result :=
  let f := s.form adr
  .next (f.after.setLc (f.ea + f.after.bias rq s.mode))

/-- *B, Unconditional Branch Indirect (R223). -/
def execStarB (rq : Bool) (adr : Address) (s : State) : Result :=
  let o := s.operandPre adr
  .next (o.after.setLc (o.eo + o.after.bias rq s.mode))

/-- NOP, No Operation (R225). -/
def execNOP  (s : State) : Result :=
  .next s

/-- LDS, Load Status Block, the return from an interrupt (R224, R383). -/
def execLDS (rq : Bool) (adr : Address) (s : State) : Result :=
  let f := s.form adr
  .next (f.after.loadStatusBlock f.ea (f.after.bias rq s.mode))

/-- SS, Store Status Block (R226). -/
def execSS (rq : Bool) (adr : Address) (s : State) : Result :=
  let f := s.form adr
  .next (f.after.storeStatusBlock f.ea (f.after.lc - f.after.bias rq s.mode))

/-- SSB, Store Status Block and Branch (R227). -/
def execSSB (rq : Bool) (adr : Address) (s : State) : Result :=
  let f := s.form adr
  let b := f.after.bias rq s.mode
  let r := (f.after.storeStatusBlock f.ea (f.after.lc - b)).read (f.ea + 2#16)
  .next (r.2.setLc (r.1 + b))

/-- SXBS, Store Status Block, Transfer and Branch in Supervisor Mode (R228). -/
def execSXBS (rq : Bool) (adr : Address) (s : State) : Result :=
  let f := s.form adr
  let b := f.after.bias rq .supervisor
  let r := ((f.after.storeStatusBlock f.ea (f.after.cpu.pc - b)).setMode .supervisor).read (f.ea + 2#16)
  .next (r.2.setPc (r.1 + b))

/-- SXBW, Store Status Block, Transfer and Branch in Worker Mode (R229). -/
def execSXBW (rq : Bool) (adr : Address) (s : State) : Result :=
  let f := s.form adr
  let b := f.after.bias rq .worker
  let r := ((f.after.storeStatusBlock f.ea (f.after.cpu.ec - b)).setMode .worker).read (f.ea + 2#16)
  .next (r.2.setEc (r.1 + b))

/-- SXS, Store Status Block and Transfer to Supervisor Mode (R230). -/
def execSXS (rq : Bool) (adr : Address) (s : State) : Result :=
  let f := s.form adr
  .next ((f.after.storeStatusBlock f.ea (f.after.cpu.pc - f.after.bias rq .supervisor)).setMode .supervisor)

/-- SXW, Store Status Block and Transfer to Worker Mode (R231). -/
def execSXW (rq : Bool) (adr : Address) (s : State) : Result :=
  let f := s.form adr
  .next ((f.after.storeStatusBlock f.ea (f.after.cpu.ec - f.after.bias rq .worker)).setMode .worker)

/-- XS, Transfer to Supervisor Mode (R232). -/
def execXS  (s : State) : Result :=
  .next (s.setMode .supervisor)

/-- XW, Transfer to Worker Mode (R235). -/
def execXW  (s : State) : Result :=
  .next (s.setMode .worker)

/-- XSB, Transfer to Supervisor Mode and Branch (R233). -/
def execXSB (rq : Bool) (adr : Address) (s : State) : Result :=
  let f := s.form adr
  .next ((f.after.setMode .supervisor).setPc (f.ea + f.after.bias rq .supervisor))

/-- XWB, Transfer to Worker Mode and Branch (R236). -/
def execXWB (rq : Bool) (adr : Address) (s : State) : Result :=
  let f := s.form adr
  .next ((f.after.setMode .worker).setEc (f.ea + f.after.bias rq .worker))

/-- *XSB, Transfer to Supervisor Mode and Branch Indirect (R234). The order of indexing follows `ST.IM`. -/
def execStarXSB (rq : Bool) (adr : Address) (s : State) : Result :=
  let f := s.form adr
  let r := (f.after.setMode .supervisor).read f.ea
  .next (r.2.setPc (r.1 + r.2.bias rq .supervisor))

/-- *XWB, Transfer to Worker Mode and Branch Indirect (R237). The order of indexing follows `ST.IM`. -/
def execStarXWB (rq : Bool) (adr : Address) (s : State) : Result :=
  let f := s.form adr
  let r := (f.after.setMode .worker).read f.ea
  .next (r.2.setEc (r.1 + r.2.bias rq .worker))

end Sys2Proof.Machine
end

