-- ==== Sys2Proof/Machine/FormatIDEF.lean ====
section
/-! DEFINITION. Meanings of ARB, ADAC and STPS (43_format_ID_IE_IF.md). On entry `LC` is the updated counter. -/

namespace Sys2Proof.Machine

/-- ARB, Add to Register and Branch on No Sign Change (R251): the bias is register 5 after the addition (D32). -/
def execARB (rq : Bool) (xr : RegNo) (addend : BitVec 4) (n : Word) (s : State) : Result :=
  let i := fileIndex s.mode xr
  let old := s.reg i
  let res := old + extend4 addend
  let t := s.putResult i res
  .next (if bit res 0 == bit old 0 then t.setLc (n + t.bias rq s.mode) else t)

/-- ADAC, Activate Direct Memory Access Channel (R252): one message to the DMAC; none where no controller is installed
(D33). -/
def execADAC (aq : BitVec 10) (n : Word) (s : State) : Result :=
  .next
    (if s.config.dmacPorts = 0 then s
     else s.setDmac { s.dmac with activations := s.dmac.activations ++ [(aq, n)] })

/-- STPS, Store Panel Switches (R253). -/
def execSTPS (adr : Address) (s : State) : Result :=
  let f := s.form adr
  .next (f.after.storeResult f.ea f.after.panel.data)

end Sys2Proof.Machine
end

