-- ==== Sys2Proof/Machine/GroupII.lean ====
section
/-! DEFINITION. Meanings of the six Group II instructions (44_format_II.md). On entry `LC` is the updated counter. -/

namespace Sys2Proof.Machine

/-- CM, Compare Memory to Memory (R262). -/
def execCM (op1 op2 : BaseRef) (s : State) : Result :=
  let x := s.read (s.baseAddress op1)
  let y := x.2.read (s.baseAddress op2)
  .next (y.2.skip (compareSigned x.1 y.1))

/-- CML, Compare Memory to Limits in Memory: the lower limit is tested first (R263). -/
def execCML (op1 op2 : BaseRef) (s : State) : Result :=
  let x := s.read (s.baseAddress op1)
  let lo := x.2.read (s.baseAddress op2)
  let hi := lo.2.read (s.baseAddress op2 + 1#16)
  .next
    (hi.2.skip
      (if x.1.toInt < lo.1.toInt then .less else if x.1.toInt > hi.1.toInt then .greater else .equal))

/-- MOV, Move Memory Word: the second operand is the destination (R264). -/
def execMOV (op1 op2 : BaseRef) (s : State) : Result :=
  let v := s.read (s.baseAddress op1)
  .next (v.2.storeResult (s.baseAddress op2) v.1)

/-- BRRL, Branch Relative and Link (R265): the base is read before the link is written; the counter linked is the updated one
unless `BRRL_LINK_UPDATED` is false (D23). -/
def execBRRL (link : RegNo) (target : BaseRef) (s : State) : Result :=
  let base := s.active target.base
  let counter := if s.config.brrlLinkUpdated then s.lc else s.lc - 2#16
  .next ((s.setReg (fileIndex s.mode link) (counter - base)).setLc (extend10 target.disp + base))

/-- AMI, Add to Memory Immediate (R266). -/
def execAMI (op1 : BaseRef) (value : BitVec 13) (s : State) : Result :=
  let a := s.baseAddress op1
  let old := s.read a
  let r := add16 old.1 (extend13 value)
  .next ((((old.2.write a r.value).setOverflow r.overflow).setCarry r.carry).setCB r.value)

/-- CMI, Compare Memory Immediate (R267). -/
def execCMI (op1 : BaseRef) (value : BitVec 13) (s : State) : Result :=
  let x := s.read (s.baseAddress op1)
  .next (x.2.skip (compareSigned x.1 (extend13 value)))

end Sys2Proof.Machine
end

