-- ==== Sys2Proof/Machine/GroupIII.lean ====
section
/-! DEFINITION. Meanings of the nine Group III instructions (45_format_III.md). On entry `LC` is the updated counter, so that the
instruction's own address is `LC - 2`. -/

namespace Sys2Proof.Machine

/-- SETF, Set Flag (R281): a word read, changed in one bit and written back; the comparison code it leaves is
`SETF_CB_POLICY`'s (D19, U7). -/
def execSETF (am : Bool) (flag : FlagRef) (v1 : Bool) (s : State) : Result :=
  let a := s.flagAddress am flag.m
  let w := s.read a
  let v := setBit w.1 flag.b.val v1
  let t := w.2.write a v
  match s.config.setfPolicy with
  | .any => .next (t.useFree.setComparison (Config.freeComparison t.freeCount))
  | .word => .next (t.setCB v)

/-- XFNE, Switch Mode if Flag Not Equal (R282). -/
def execXFNE (am : Bool) (flag : FlagRef) (v1 : Bool) (s : State) : Result :=
  let w := s.read (s.flagAddress am flag.m)
  .next (w.2.switchUnless (bit w.1 flag.b.val) v1)

/-- BFNE, Branch if Flag Not Equal (R283). -/
def execBFNE (am : Bool) (flag : FlagRef) (v1 : Bool) (n : BitVec 10) (s : State) : Result :=
  let w := s.read (s.flagAddress am flag.m)
  .next (w.2.branchUnless (bit w.1 flag.b.val) v1 (w.2.branchTarget n))

/-- SETB, Set CRU Output Bit (R284). -/
def execSETB (am : Bool) (m : BitVec 10) (v1 : Bool) (s : State) : Result :=
  .next (s.cruOut (s.cruAddress am m) v1)

/-- XBNE, Switch Mode on Bit Not Equal (R285). -/
def execXBNE (am : Bool) (m : BitVec 10) (v1 : Bool) (s : State) : Result :=
  let f := s.cruIn (s.cruAddress am m)
  .next (f.2.switchUnless f.1 v1)

/-- BBNE, Branch on Bit Not Equal (R286). -/
def execBBNE (am : Bool) (m : BitVec 10) (v1 : Bool) (n : BitVec 10) (s : State) : Result :=
  let f := s.cruIn (s.cruAddress am m)
  .next (f.2.branchUnless f.1 v1 (f.2.branchTarget n))

/-- TSBX, Test Input Bit and Switch Mode or Set Output Bit (R287); with `am` = 1 a failed test does nothing (D17). -/
def execTSBX (am : Bool) (m : BitVec 10) (v1 : Bool) (n : BitVec 10) (ob : Bool) (s : State) : Result :=
  let f := s.cruIn (s.cruAddress am m)
  .next
    (if f.1 == v1 then f.2.cruOut (s.cruAddress am n) ob
     else if am then f.2
     else f.2.switchMode)

/-- LDCR, Load Communication Register (R288). -/
def execLDCR (am : Bool) (m : BitVec 10) (width : Nat) (n : BitVec 10) (s : State) : Result :=
  let w := s.read (s.dataAddress am n)
  .next (w.2.putField (s.cruAddress am m) w.1 width)

/-- STCR, Store Communication Register (R289). -/
def execSTCR (am : Bool) (m : BitVec 10) (width : Nat) (n : BitVec 10) (s : State) : Result :=
  let v := s.getField (s.cruAddress am m) width
  .next (v.2.storeResult (s.dataAddress am n) (extendField v.1 width))

end Sys2Proof.Machine
end

