-- ==== Sys2Proof/Machine/Dispatch.lean ====
section
/-! DEFINITION. The dispatch of the 78 instructions, one arm for each row of spec/opcode_table.json (30_encoding.md R118). -/

namespace Sys2Proof.Machine

def exec (i : Instr) (s : State) : Host.Outcome State Fault Refusal :=
  match i with
  | .a reg adr => Sys2Proof.Machine.execA reg adr s
  | .aa reg adr => Sys2Proof.Machine.execAA reg adr s
  | .bl reg adr => Sys2Proof.Machine.execBL reg adr s
  | .starBL reg adr => Sys2Proof.Machine.execStarBL reg adr s
  | .cr reg adr => Sys2Proof.Machine.execCR reg adr s
  | .cra reg adr => Sys2Proof.Machine.execCRA reg adr s
  | .crl reg adr => Sys2Proof.Machine.execCRL reg adr s
  | .crla reg adr => Sys2Proof.Machine.execCRLA reg adr s
  | .d reg adr => Sys2Proof.Machine.execD reg adr s
  | .da reg adr => Sys2Proof.Machine.execDA reg adr s
  | .dad reg adr => Sys2Proof.Machine.execDAD reg adr s
  | .dlax reg adr => Sys2Proof.Machine.execDLAX reg adr s
  | .drax reg adr => Sys2Proof.Machine.execDRAX reg adr s
  | .drlx reg adr => Sys2Proof.Machine.execDRLX reg adr s
  | .drrx reg adr => Sys2Proof.Machine.execDRRX reg adr s
  | .ds reg adr => Sys2Proof.Machine.execDS reg adr s
  | .l reg adr => Sys2Proof.Machine.execL reg adr s
  | .la reg adr => Sys2Proof.Machine.execLA reg adr s
  | .lot reg adr => Sys2Proof.Machine.execLOT reg adr s
  | .lota reg adr => Sys2Proof.Machine.execLOTA reg adr s
  | .m reg adr => Sys2Proof.Machine.execM reg adr s
  | .ma reg adr => Sys2Proof.Machine.execMA reg adr s
  | .mlax reg adr => Sys2Proof.Machine.execMLAX reg adr s
  | .mrax reg adr => Sys2Proof.Machine.execMRAX reg adr s
  | .mrrx reg adr => Sys2Proof.Machine.execMRRX reg adr s
  | .n reg adr => Sys2Proof.Machine.execN reg adr s
  | .na reg adr => Sys2Proof.Machine.execNA reg adr s
  | .or reg adr => Sys2Proof.Machine.execOr reg adr s
  | .ora reg adr => Sys2Proof.Machine.execOrA reg adr s
  | .s reg adr => Sys2Proof.Machine.execS reg adr s
  | .sa reg adr => Sys2Proof.Machine.execSA reg adr s
  | .sat reg adr => Sys2Proof.Machine.execSAT reg adr s
  | .st reg adr => Sys2Proof.Machine.execST reg adr s
  | .xor reg adr => Sys2Proof.Machine.execXor reg adr s
  | .xora reg adr => Sys2Proof.Machine.execXorA reg adr s
  | .bc bit adr => Sys2Proof.Machine.execBC bit adr s
  | .starBC bit adr => Sys2Proof.Machine.execStarBC bit adr s
  | .dla count adr => Sys2Proof.Machine.execDLA count adr s
  | .dra count adr => Sys2Proof.Machine.execDRA count adr s
  | .drl count adr => Sys2Proof.Machine.execDRL count adr s
  | .drr count adr => Sys2Proof.Machine.execDRR count adr s
  | .mla count adr => Sys2Proof.Machine.execMLA count adr s
  | .mra count adr => Sys2Proof.Machine.execMRA count adr s
  | .mrr count adr => Sys2Proof.Machine.execMRR count adr s
  | .b rq adr => Sys2Proof.Machine.execB rq adr s
  | .starB rq adr => Sys2Proof.Machine.execStarB rq adr s
  | .lds rq adr => Sys2Proof.Machine.execLDS rq adr s
  | .nop => Sys2Proof.Machine.execNOP s
  | .ss rq adr => Sys2Proof.Machine.execSS rq adr s
  | .ssb rq adr => Sys2Proof.Machine.execSSB rq adr s
  | .sxbs rq adr => Sys2Proof.Machine.execSXBS rq adr s
  | .sxbw rq adr => Sys2Proof.Machine.execSXBW rq adr s
  | .sxs rq adr => Sys2Proof.Machine.execSXS rq adr s
  | .sxw rq adr => Sys2Proof.Machine.execSXW rq adr s
  | .xs => Sys2Proof.Machine.execXS s
  | .xsb rq adr => Sys2Proof.Machine.execXSB rq adr s
  | .starXSB rq adr => Sys2Proof.Machine.execStarXSB rq adr s
  | .xw => Sys2Proof.Machine.execXW s
  | .xwb rq adr => Sys2Proof.Machine.execXWB rq adr s
  | .starXWB rq adr => Sys2Proof.Machine.execStarXWB rq adr s
  | .arb rq xr addend n => Sys2Proof.Machine.execARB rq xr addend n s
  | .adac aq n => Sys2Proof.Machine.execADAC aq n s
  | .stps adr => Sys2Proof.Machine.execSTPS adr s
  | .cm op1 op2 => Sys2Proof.Machine.execCM op1 op2 s
  | .cml op1 op2 => Sys2Proof.Machine.execCML op1 op2 s
  | .mov op1 op2 => Sys2Proof.Machine.execMOV op1 op2 s
  | .brrl link target => Sys2Proof.Machine.execBRRL link target s
  | .ami op1 value => Sys2Proof.Machine.execAMI op1 value s
  | .cmi op1 value => Sys2Proof.Machine.execCMI op1 value s
  | .setf am flag v1 => Sys2Proof.Machine.execSETF am flag v1 s
  | .xfne am flag v1 => Sys2Proof.Machine.execXFNE am flag v1 s
  | .bfne am flag v1 n => Sys2Proof.Machine.execBFNE am flag v1 n s
  | .setb am m v1 => Sys2Proof.Machine.execSETB am m v1 s
  | .xbne am m v1 => Sys2Proof.Machine.execXBNE am m v1 s
  | .bbne am m v1 n => Sys2Proof.Machine.execBBNE am m v1 n s
  | .tsbx am m v1 n ob => Sys2Proof.Machine.execTSBX am m v1 n ob s
  | .ldcr am m width n => Sys2Proof.Machine.execLDCR am m width n s
  | .stcr am m width n => Sys2Proof.Machine.execSTCR am m width n s

end Sys2Proof.Machine
end

