-- ==== Sys2Proof/Machine/Panel.lean ====
section
/-! DEFINITION. The front panel as an agent (60_exceptions.md R410 to R414, 70_reset_and_hazards.md R420, R432). -/

namespace Sys2Proof.Machine

/-! ### What the indicators show (R44, R414) -/

/-- The DATA lights: in the RUN or SIE mode the active location counter, else the display register (R42, R410). DESIGN CHOICE
(log 40): the SIE mode is the SIE switch at ON. -/
def State.dataLights (s : State) : Word := if s.running || s.panel.sie then s.lc else s.panel.display

/-- POWER -/
def State.powerLight (s : State) : Bool := s.powered

/-- POWER LOSS -/
def State.powerLossLight (s : State) : Bool := s.panel.powerLoss

/-- MPO -/
def State.mpoLight (s : State) : Bool := s.panel.mpo

/-- MODE, the RUN indicator -/
def State.runLight (s : State) : Bool := s.running

/-! ### Memory from the panel -/

/-- A panel write of one memory word. To protected memory with the override off it stores nothing, and leaves `MV` at any
value; an `MV` left set is a request, which waits for START (R72, R411, U6). DESIGN CHOICE (log 13): each suppressed word, of a
LOAD or of one ENTER after another, settles `MV` anew, and one that clears `MV` leaves a request already latched as it is. -/
def State.panelWrite (s : State) (a v : Word) : State :=
  if s.blocked a then
    if Config.freeBit s.freeCount then s.useFree.raiseInternal .mv
    else s.useFree.setSt (setBit s.cpu.st bitMV false)
  else s.store a v

/-- The display register. -/
def State.setDisplay (s : State) (v : Word) : State := s.setPanel { s.panel with display := v }

/-- The Memory Address register. -/
def State.setMa (s : State) (v : Word) : State := s.setPanel { s.panel with ma := v }

/-- A register the panel can display or enter (R411). -/
def State.panelRegister (s : State) (r : PanelRegister) : Word :=
  match r with
  | .pc => s.cpu.pc
  | .ec => s.cpu.ec
  | .st => s.cpu.st
  | .ma => s.panel.ma

/-- Enter a register; ST ENTER writes all sixteen bits and requests nothing (R411, D7). -/
def State.setPanelRegister (s : State) (r : PanelRegister) (v : Word) : State :=
  match r with
  | .pc => s.setPc v
  | .ec => s.setEc v
  | .st => s.setSt v
  | .ma => s.setMa v

/-- MD ENTER: the DATA switches into `Mem[MA]` and the display (R411). -/
def State.enterMemory (s : State) : State := (s.panelWrite s.panel.ma s.panel.data).setDisplay s.panel.data

/-- MD DISPLAY: `Mem[MA]` into the display (R411). Check bits are tested on this read too (R48). -/
def State.displayMemory (s : State) : State :=
  let w := s.read s.panel.ma
  w.2.setDisplay w.1

/-- `MA <- MA + 1` (R411, D1). -/
def State.nextMa (s : State) : State := s.setMa (s.panel.ma + 1#16)

/-! ### RESET and LOAD -/

/-- The first `k` registers of the file take any value (U10). -/
def State.freeRegs (s : State) : Nat → State
  | 0 => s
  | k + 1 =>
    let t := s.freeRegs k
    if h : k < 16 then t.useFree.setReg ⟨k, h⟩ (Config.freeWord t.freeCount) else t

/-- RESET (R420, R422): `PC`, `ST`, `MA` and the display cleared, the POWER LOSS latch off, no internal request; `EC` and the
sixteen registers any value (D22, U10); `IA`, `IB`, memory and every device unchanged (R422, R423). -/
def State.panelReset (s : State) : State :=
  let t := ((s.setPc 0#16).setSt 0#16).setPending false
  let u := t.setPanel { t.panel with ma := 0#16, display := 0#16, powerLoss := false }
  let v := u.useFree.setEc (Config.freeWord u.freeCount)
  v.freeRegs 16

/-- The first `k` words of the loader's ROM go to memory from `base` on (R432). -/
def State.loadRom (s : State) (base : Word) : Nat → State
  | 0 => s
  | k + 1 => (s.loadRom base k).panelWrite (base + BitVec.ofNat 16 k) (s.config.rom.getD k 0#16)

/-- LOAD, where the ROM loader is installed (R432). What `MA` holds afterwards is not stated (N45). -/
def State.panelLoad (s : State) : State :=
  if s.config.hasRomLoader then
    let t := s.loadRom s.panel.ma 256
    t.useFree.setMa (Config.freeWord t.freeCount)
  else s

/-! ### Run control -/

/-- The arithmetic-unit clock is running: always, unless the CLOCK switch works and is not at ON (R413). -/
def State.clockRuns (s : State) : Bool := !s.config.clockSwitchEnabled || s.panel.clock == .on

/-- One step of R377, where the clock runs (R413, U8). -/
def State.clockedStep (run : Instr → State → Result) (s : State) : Result :=
  if s.clockRuns then s.cpuStep run else .refused .clockSwitch

/-- START (R412, D36): MODE at RUN starts; at HALT with SIE on one step of R377 is executed and the machine stays in HALT;
with SIE off nothing happens. -/
def State.panelStart (run : Instr → State → Result) (s : State) : Result :=
  if s.running then .next s
  else if s.panel.modeRun then .next (s.setRunning true)
  else if s.panel.sie then s.clockedStep run
  else .next s

/-- The MODE switch: at HALT the machine halts, the instruction in progress being complete (R412). -/
def State.setModeSwitch (s : State) (on : Bool) : State :=
  let t := s.setPanel { s.panel with modeRun := on }
  if on then t else t.setRunning false

/-- The CLOCK switch. STEP is momentary and springs back to OFF; on the 960B it resets the error indicator latches; the pulse
it gives an enabled clock is not modelled (R413, U8). -/
def State.setClockSwitch (s : State) (p : ClockPosition) : Result :=
  match p with
  | .on => .next (s.setPanel { s.panel with clock := .on })
  | .off => .next (s.setPanel { s.panel with clock := .off })
  | .step =>
    if s.config.clockSwitchEnabled then .refused .clockSwitch
    else
      match s.config.model with
      | .m960A => .next (s.setPanel { s.panel with clock := .off })
      | .m960B => .next (s.setPanel { s.panel with clock := .off, errorLatches := [] })

/-- An action that works in HALT only (R411, R420, R432). DESIGN CHOICE (log 40): ENTER and DISPLAY act in HALT whatever SIE is,
as R411 has them, though R410 says that in SIE operation the panel only displays; with SIE on, the lights go on showing the
counter. -/
def State.inHalt (s : State) (t : State) : Result := if s.running then .next s else .next t

/-- An action of an unlocked panel with the power on (R410). -/
def State.panelUnlocked (run : Instr → State → Result) (s : State) : PanelAction → Result
  | .setData v => .next (s.setPanel { s.panel with data := v })
  | .setLocked on => .next (s.setPanel { s.panel with locked := on })
  | .setMpo on => .next (s.setPanel { s.panel with mpo := on })
  | .setMode on => .next (s.setModeSwitch on)
  | .setSie on => .next (s.setPanel { s.panel with sie := on })
  | .setClock p => s.setClockSwitch p
  | .start => s.panelStart run
  | .reset => s.inHalt s.panelReset
  | .load => s.inHalt s.panelLoad
  | .enter r => s.inHalt ((s.setPanelRegister r s.panel.data).setDisplay s.panel.data)
  | .display r => s.inHalt (s.setDisplay (s.panelRegister r))
  | .enterMd => s.inHalt s.enterMemory
  | .displayMd => s.inHalt s.displayMemory
  | .enterMdi => s.inHalt s.enterMemory.nextMa
  | .displayMdi => s.inHalt s.displayMemory.nextMa
  | .displayIa => s.inHalt (s.setDisplay s.cpu.ia)
  | .displayIb => s.inHalt (s.setDisplay s.cpu.ib)

/-- An action that LOCK disables: every control but the DATA switches; the LOCK/UNLOCK switch itself turns (R43, R410). -/
def PanelAction.lockable : PanelAction → Bool
  | .setData _ | .setLocked _ => false
  | .setMpo _ | .setMode _ | .setSie _ | .setClock _ | .start | .reset | .load | .enter _ | .display _ | .enterMd
  | .displayMd | .enterMdi | .displayMdi | .displayIa | .displayIb => true

/-- An action of the operator (R410). With the power off only the DATA switches and the lock move (log 14). -/
def State.panelAct (run : Instr → State → Result) (s : State) (act : PanelAction) : Result :=
  if act.lockable && (s.panel.locked || !s.powered) then .next s else s.panelUnlocked run act

end Sys2Proof.Machine
end

