-- ==== Sys2Proof/Machine/Agents.lean ====
section
/-! DEFINITION. The turns of the agents: the processor, the operator, the CRU modules, the DMAC, the power system and the
memory's check bits (10_state.md R20, 60_exceptions.md R372, R373, R385 to R391; 92_eei_decisions.md section 4). -/

namespace Sys2Proof.Machine

/-- The processor's turn. Without power it has stopped (R373); in HALT it does nothing (R49); in RUN it executes one step of
R377. -/
def State.cpuTurn (s : State) : Result :=
  if s.powered then
    if s.running then s.clockedStep exec else .next s
  else .fault .powerOff

/-- A module drives an input line it is installed at (R46). -/
def State.driveInput (s : State) (line : CruLine) (level : Bool) : State :=
  if s.hasInput line then s.setCru { s.cru with inputs := setLine s.cru.inputs line level } else s

/-- The CRU interrupt line is the OR of the installed modules' requests (R391); without a module it stays 0. -/
def State.driveInterrupt (s : State) (level : Bool) : State :=
  if s.config.cruGroups.isEmpty then s else s.setCru { s.cru with interruptLine := level }

/-- A transfer of one word to memory (R387). The environment keeps it off the register window and off protected memory
(U25). -/
def State.dmacStore (s : State) (a v : Word) : Result :=
  if s.blocked a then .refused (.dmacTarget a)
  else
    match placeOf a with
    | .register _ => .refused (.dmacTarget a)
    | .memory _ => .next (s.store a v)

/-- The DMAC's write cycle: a transfer of a task in progress, at any moment between its start and the report of its
completion; without such a task there is none (R76, R388). A read cycle of the DMAC has no turn: it changes no word, and that
one of a word with bad check bits raises no MP is a DESIGN CHOICE (log 41; R48, R372). -/
def State.dmacTransfer (s : State) (task : Nat) (a v : Word) : Result :=
  if task < s.dmac.tasks.length then s.dmacStore a v else .next s

/-- A controller of this number is installed. DESIGN CHOICE (log 39): with fewer than eight ports the spec does not say which
numbers they have (N42); the model takes them as 0 up. -/
def State.hasController (s : State) (c : Fin 8) : Bool := decide (c.val < s.config.dmacPorts)

/-- Controller `c`'s interrupt line goes to 1 (R386); `words` is what it stores when the interrupt is recognised. -/
def State.dmacInterrupt (s : State) (c : Fin 8) (words : ControllerStatus) : State :=
  s.setDmac
    { s.dmac with
      intStatus := s.dmac.intStatus ||| (1#8 <<< c.val)
      status := s.dmac.status.set c.val words c.isLt }

/-- The task at a place among those in progress is over, and transfers no more (R76); a controller ends its own tasks only. -/
def State.endTask (s : State) (c : Fin 8) (task : Nat) : State :=
  match s.dmac.tasks[task]? with
  | none => s
  | some d => if d.controller = c then s.setDmac { s.dmac with tasks := s.dmac.tasks.eraseIdx task } else s

/-- A controller's report (R386). The task it reports complete is over first, so that all its transfers precede the storing of
its status, at this moment or when the interrupt is recognised (R76). -/
def State.dmacReported (s : State) (r : StatusReport) : State :=
  if s.hasController r.controller then
    let t :=
      match r.completes with
      | none => s
      | some task => s.endTask r.controller task
    let u := if r.stores then t.storeStatusWords r.controller r.words else t
    if r.interrupts then u.dmacInterrupt r.controller r.words else u
  else s

/-- The oldest activation leaves the queue; an installed controller that takes it up has a task in progress (R252, R385);
where none answers it has no effect (D33). -/
def State.dmacTakeUp (s : State) (c : Option (Fin 8)) : State :=
  match s.dmac.activations with
  | [] => s
  | q :: rest =>
    let t := s.setDmac { s.dmac with activations := rest }
    match c with
    | none => t
    | some c =>
      if s.hasController c then
        t.setDmac { t.dmac with tasks := t.dmac.tasks ++ [{ controller := c, request := q.1, list := q.2 }] }
      else t

/-- The check bits of a memory word go bad (R48). -/
def State.spoilWord (s : State) (a : Word) : State :=
  match placeOf a with
  | .register _ => s
  | .memory k => if s.installed k then s.setCheckFails (insertAddress k s.checkFails) else s

/-- Contents of memory that was not kept: the words of the list, all others 0. -/
def State.fillMemory (s : State) : List (Word × Word) → State
  | [] => s
  | c :: l =>
    match placeOf c.1 with
    | .register _ => s.fillMemory l
    | .memory _ => (s.fillMemory l).store c.1 c.2

/-- Check bits of memory that was not kept. -/
def State.spoilWords (s : State) : List Word → State
  | [] => s
  | a :: l => (s.spoilWords l).spoilWord a

/-- Memory power lasted through the outage: a battery, connected and on (R425). -/
def State.memoryPowered (s : State) (p : PowerUp) : Bool := s.config.hasBattery && p.batteryOn

/-- Memory kept its contents: with memory power, or where the environment says that it was retained (R373, R425,
93_implementation_defined.md section 3; log 22). -/
def State.memoryKept (s : State) (p : PowerUp) : Bool := s.memoryPowered p || p.retained

/-- Memory after an outage (R425, U11). -/
def State.restoreMemory (s : State) (p : PowerUp) : State :=
  if s.memoryKept p then s else (((s.setMem []).setCheckFails []).fillMemory p.contents).spoilWords p.failing

/-- Power is restored (R373, R424): `ST` is `0x00C0`, the internal interrupt is requested with no cause bit, the POWER LOSS
latch goes on where memory power was lost, the run state follows the MODE switch (D34), and what the outage left comes
from the environment (D22). -/
def State.restorePower (s : State) (p : PowerUp) : State :=
  let t := s.restoreMemory p
  { t with
    cpu :=
      { regs := p.regs, pc := p.pc, ec := p.ec, st := 0x00C0#16, ia := p.ia, ib := p.ib, internalPending := true }
    cru := { t.cru with outputs := linesAt p.outputs }
    dmac := { intStatus := p.intStatus, status := p.status, activations := p.activations, tasks := p.tasks }
    panel :=
      { t.panel with
        ma := p.ma
        display := p.display
        powerLoss := t.panel.powerLoss || !s.memoryPowered p
        errorLatches := p.errorLatches }
    running := t.panel.modeRun
    powered := true }

/-- Power goes: the processor stops (R373). -/
def State.losePower (s : State) : State := (s.setRunning false).setPowered false

/-- A 960B error indicator latch is set (R48). -/
def State.latchError (s : State) (k : Nat) : State :=
  match s.config.model with
  | .m960A => s
  | .m960B => s.setPanel { s.panel with errorLatches := insertAddress k s.panel.errorLatches }

/-- An event that needs the power on. -/
def State.whilePowered (s : State) (t : State) : Result := if s.powered then .next t else .next s

/-- One turn, of the agent the schedule names. -/
def State.takeTurn (s : State) : Turn → Result
  | .cpu => s.cpuTurn
  | .panel act => s.panelAct exec act
  | .cruInput line level => .next (s.driveInput line level)
  | .cruInterrupt level => .next (s.driveInterrupt level)
  | .dmacWrite task a v => if s.powered then s.dmacTransfer task a v else .next s
  | .dmacReport r => s.whilePowered (s.dmacReported r)
  | .dmacTake c => s.whilePowered (s.dmacTakeUp c)
  | .powerLossSensed => s.whilePowered (s.raiseInternal .pf)
  | .powerOff => .next s.losePower
  | .powerRestored p => if s.powered then .next s else .next (s.restorePower p)
  | .memoryError a => s.whilePowered (s.spoilWord a)
  | .errorLatch k => s.whilePowered (s.latchError k)

/-- The next turn of the schedule, which it leaves; with no schedule left the processor has every turn (log 4). -/
def State.nextTurn (s : State) : Result :=
  match s.schedule with
  | [] => s.cpuTurn
  | t :: rest => (s.setSchedule rest).takeTurn t

/-- The machine made ready to fetch at `LC` in its next turn: power and RUN on, every switch and request that would come
first out of the way, and the two words at `LC` installed. -/
def State.readyToFetch (s : State) : State :=
  let a := s.lc
  let need := s.installed a.toNat && s.installed (a + 1#16).toNat
  { s with
    config := if need then s.config else { s.config with memWords := 65536 }
    cpu := { s.cpu with internalPending := false }
    cru := { s.cru with interruptLine := false }
    dmac := { s.dmac with intStatus := 0#8 }
    panel := { s.panel with clock := .on, modeRun := true }
    running := true
    powered := true
    schedule := [] }

end Sys2Proof.Machine
end

