-- ==== Sys2Proof/Machine/Step.lean ====
section
/-! DEFINITION. One step of the system, and the placing of an instruction where it fetches next. -/

namespace Sys2Proof.Machine

/-- One step: one turn of one agent (10_state.md R20, 60_exceptions.md R377; log 4). -/
def step (s : State) : Host.Outcome State Fault Refusal := s.nextTurn

/-- The instruction whose bits are `w`, numbered as `spec/opcode_table.json` numbers them, stored at `LC` and `LC + 1`, so
that the next step fetches and runs it (log 2). -/
def State.withFetchWord (s : State) (nbits w : Nat) : State :=
  let t := s.readyToFetch
  (t.store t.lc (firstWord (tablePair nbits w))).store (t.lc + 1#16) (secondWord (tablePair nbits w))

end Sys2Proof.Machine
end

