-- ==== Sys2Proof/Safety.lean ====
section
/-! DEFINITION. The terms claims use: the invariant of every run, which words and addresses read without an error, and what
it means that a step leaves the rest of the machine alone. -/

namespace Sys2Proof.Machine

/-! ### The invariant -/

/-- An address of the register window (R63). -/
def inWindow (a : Nat) : Bool := decide (0x80 ≤ a) && decide (a < 0x90)

/-- Memory is in its canonical form, and lists installed words outside the register window only (R22, R65). -/
def State.memoryLegal (s : State) : Prop :=
  s.mem.wf = true ∧ ∀ c ∈ s.mem, s.installed (c.1 / 2) = true ∧ inWindow (c.1 / 2) = false

/-- The words with bad check bits are listed once each, rising, and are installed words outside the window. -/
def State.checksLegal (s : State) : Prop :=
  s.checkFails.Pairwise (· < ·) ∧ ∀ k ∈ s.checkFails, s.installed k = true ∧ inWindow k = false

/-- The CRU lines at 1 are listed once each, rising, and are lines (R82). -/
def State.linesLegal (s : State) : Prop :=
  (s.cru.inputs.Pairwise (· < ·) ∧ ∀ k ∈ s.cru.inputs, k < 4096) ∧
  (s.cru.outputs.Pairwise (· < ·) ∧ ∀ k ∈ s.cru.outputs, k < 4096)

/-- In RUN the power is on and the MODE switch is at RUN (R49, R412, R424). -/
def State.runLegal (s : State) : Prop := s.running = true → s.powered = true ∧ s.panel.modeRun = true

/-- What every step keeps. -/
structure State.Inv (s : State) : Prop where
  memory : s.memoryLegal
  checks : s.checksLegal
  lines : s.linesLegal
  run : s.runLegal

/-! ### Reading without an error -/

/-- A word reads with no parity error and is there: a register, or an installed memory word with valid check bits. -/
def State.sound (s : State) (a : Word) : Bool :=
  match placeOf a with
  | .register _ => true
  | .memory k => s.installed k && !s.checkFails.contains k

/-- The effective address as R110 writes it, from the words as they stand. -/
def State.ea (s : State) (preindex : Bool) : Address → Word
  | .direct n => n
  | .indirect n => s.peek n
  | .indexed xr n => n + s.active xr
  | .indirectIndexed xr n => if preindex then s.peek (n + s.active xr) else s.peek n + s.active xr

/-- The words read to form an effective address are sound. -/
def State.eaSound (s : State) (preindex : Bool) : Address → Bool
  | .direct _ => true
  | .indirect n => s.sound n
  | .indexed _ _ => true
  | .indirectIndexed xr n => if preindex then s.sound (n + s.active xr) else s.sound n

/-- `EA` in the order `ST.IM` selects. -/
def State.eff (s : State) (adr : Address) : Word := s.ea s.preindex adr

/-- `EA` is formed without an error. -/
def State.addressReads (s : State) (adr : Address) : Bool := s.eaSound s.preindex adr

/-- `EA` and `EO` are read without an error. -/
def State.operandReads (s : State) (adr : Address) : Bool := s.addressReads adr && s.sound (s.eff adr)

/-- `EA` and both words of a double-length operand are read without an error. -/
def State.operandReads2 (s : State) (adr : Address) : Bool := s.operandReads adr && s.sound (s.eff adr + 1#16)

/-- The same with pre-indexing forced. -/
def State.operandReadsPre (s : State) (adr : Address) : Bool := s.eaSound true adr && s.sound (s.ea true adr)

/-- The double word at an address. -/
def State.peek2 (s : State) (a : Word) : DWord := joinWords (s.peek a) (s.peek (a + 1#16))

/-- The second word of a register pair is there and reads without an error. -/
def State.pairReads (s : State) (i : FileIndex) : Bool := s.sound (regAddress i + 1#16)

/-- There is a word at the address: a register, or an installed memory word. -/
def State.present (s : State) (a : Word) : Bool :=
  match placeOf a with
  | .register _ => true
  | .memory k => s.installed k

/-- The word at an address can be stored to: it is there, and no protection blocks it. -/
def State.storable (s : State) (a : Word) : Bool := !s.blocked a && s.present a

/-! ### What is left alone -/

/-- The masks of the indicators an instruction may write (R30). -/
def maskOI : Word := 0x4000#16
/-- `CB` -/
def maskCB : Word := 0x0038#16
/-- `CO` -/
def maskCO : Word := 0x0004#16
/-- `MI` -/
def maskMI : Word := 0x8000#16
/-- the cause bits an instruction's own accesses can set: `MP` and `MV` -/
def maskCauses : Word := 0x2400#16

/-- The memory word with this number is none of the written ones. -/
def outsideWords (written : List Word) (k : Nat) : Bool := written.all (fun a => a.toNat != k)

/-- `t` differs from `s` in no word of the address space, a register or a memory word, outside `written`, and in no bit of
`ST` outside `flags`; outside `written` the same words have bad check bits, and none of the written ones has come to have them;
the rest is as it was, but for the location counters, `IB`, the CRU and the DMAC, of which a claim speaks separately. Words are the smallest unit the machine addresses (R60); the registers are the addresses `0x80` to
`0x8F` (R22). -/
structure Frame (s t : State) (written : List Word) (flags : Word) : Prop where
  words : ∀ a, a ∉ written → t.peek a = s.peek a
  status : t.cpu.st &&& ~~~flags = s.cpu.st &&& ~~~flags
  ia : t.cpu.ia = s.cpu.ia
  pending : t.cpu.internalPending = s.cpu.internalPending
  checks : t.checkFails.filter (outsideWords written) = s.checkFails.filter (outsideWords written)
  noNewFails : ∀ k, k ∈ t.checkFails → k ∈ s.checkFails
  config : t.config = s.config
  panel : t.panel = s.panel
  running : t.running = s.running
  powered : t.powered = s.powered
  schedule : t.schedule = s.schedule

/-- The CRU and the DMAC are as they were. -/
def SameDevices (s t : State) : Prop := t.cru = s.cru ∧ t.dmac = s.dmac

/-- Both location counters are as they were: on entry the active one already holds the next instruction's address. -/
def SameCounters (s t : State) : Prop := t.cpu.pc = s.cpu.pc ∧ t.cpu.ec = s.cpu.ec

/-- The active location counter holds `target`, the other is as it was. -/
def Counts (s t : State) (target : Word) : Prop :=
  t.lcOf s.mode = target ∧ t.lcOf (otherMode s.mode) = s.lcOf (otherMode s.mode)

/-- How an instruction may change `ST`: in the bits of `flags`, and by setting `MP` or `MV` on its own accesses. -/
def StatusStep (x y flags : Word) : Prop :=
  ∀ j, j < 16 → bit flags j = true ∨ bit y j = bit x j ∨ ((j = bitMP ∨ j = bitMV) ∧ bit y j = true)

/-- The table of R40: the indicators an instruction writes. LDS loads all of `ST`. -/
def flagsWritten : Instr → Word
  | .a _ _ | .aa _ _ | .s _ _ | .sa _ _ | .ami _ _ => maskOI ||| maskCO ||| maskCB
  | .sat _ _ => maskCO ||| maskCB
  | .d _ _ | .da _ _ | .dad _ _ | .ds _ _ | .dla _ _ | .dlax _ _ | .mla _ _ | .mlax _ _ => maskOI ||| maskCB
  | .dra _ _ | .drax _ _ | .drl _ _ | .drlx _ _ | .drr _ _ | .drrx _ _ | .mra _ _ | .mrax _ _ | .mrr _ _ | .mrrx _ _
  | .m _ _ | .ma _ _ | .l _ _ | .la _ _ | .lot _ _ | .lota _ _ | .n _ _ | .na _ _ | .or _ _ | .ora _ _ | .xor _ _
  | .xora _ _ | .st _ _ | .cr _ _ | .cra _ _ | .crl _ _ | .crla _ _ | .arb _ _ _ _ | .stps _ | .mov _ _
  | .stcr _ _ _ _ | .setf _ _ _ => maskCB
  | .lds _ _ => 0xFFFF#16
  | .sxbs _ _ | .sxbw _ _ | .sxs _ _ | .sxw _ _ | .xs | .xw | .xsb _ _ | .starXSB _ _ | .xwb _ _ | .starXWB _ _
  | .xfne _ _ _ | .xbne _ _ _ | .tsbx _ _ _ _ _ => maskMI
  | .b _ _ | .starB _ _ | .bl _ _ | .starBL _ _ | .bc _ _ | .starBC _ _ | .nop | .ss _ _ | .ssb _ _ | .brrl _ _
  | .cm _ _ | .cml _ _ | .cmi _ _ | .bfne _ _ _ _ | .bbne _ _ _ _ | .setb _ _ _ | .ldcr _ _ _ _ | .adac _ _ => 0#16

/-- The comparison code in `ST<10:12>` is exactly `c`: one of the three bits is 1 (R36). -/
def State.comparisonIs (t : State) (c : Comparison) : Prop :=
  bit t.cpu.st bitGT = (c == .greater) ∧ bit t.cpu.st bitEQ = (c == .equal) ∧ bit t.cpu.st bitLT = (c == .less)

/-- A result in one register, tested against zero; no counter and no device changes. -/
def PutsResult (s : State) (r : Result) (i : FileIndex) (v : Word) : Prop :=
  ∃ t, r = .next t ∧ t.reg i = v ∧ t.comparisonIs (compareZero v) ∧ SameCounters s t ∧ SameDevices s t
    ∧ Frame s t [regAddress i] maskCB

/-- A sum in one register with its carry and overflow. -/
def PutsSum (s : State) (r : Result) (i : FileIndex) (v : Word) (carry overflow : Bool) : Prop :=
  ∃ t, r = .next t ∧ t.reg i = v ∧ t.comparisonIs (compareZero v) ∧ bit t.cpu.st bitCO = carry
    ∧ bit t.cpu.st bitOI = overflow ∧ SameCounters s t ∧ SameDevices s t
    ∧ Frame s t [regAddress i] (maskOI ||| maskCO ||| maskCB)

/-- A double-length result in a register and the word after it, its high half tested. -/
def PutsPair (s : State) (r : Result) (i : FileIndex) (v : DWord) (flags : Word) (overflow : Bool) : Prop :=
  ∃ t, r = .next t ∧ t.reg i = highWord v ∧ t.peek (regAddress i + 1#16) = lowWord v
    ∧ t.comparisonIs (compareZero (highWord v)) ∧ bit t.cpu.st bitOI = overflow ∧ SameCounters s t ∧ SameDevices s t
    ∧ Frame s t [regAddress i, regAddress i + 1#16] flags

/-- Only the comparison code is written. -/
def PutsComparison (s : State) (r : Result) (c : Comparison) : Prop :=
  ∃ t, r = .next t ∧ t.comparisonIs c ∧ SameCounters s t ∧ SameDevices s t ∧ Frame s t [] maskCB

/-- A result in one word of the address space, tested against zero. -/
def StoresResult (s : State) (r : Result) (a v : Word) : Prop :=
  ∃ t, r = .next t ∧ t.peek a = v ∧ t.comparisonIs (compareZero v) ∧ SameCounters s t ∧ SameDevices s t
    ∧ Frame s t [a] maskCB

/-- A left shift's result in one word. -/
def StoresShift (s : State) (r : Result) (a v : Word) (overflow : Bool) : Prop :=
  ∃ t, r = .next t ∧ t.peek a = v ∧ t.comparisonIs (compareZero v) ∧ bit t.cpu.st bitOI = overflow
    ∧ SameCounters s t ∧ SameDevices s t ∧ Frame s t [a] (maskOI ||| maskCB)

/-- A double-length result at `a` and `a + 1`, its high half tested. -/
def StoresResult2 (s : State) (r : Result) (a : Word) (v : DWord) : Prop :=
  ∃ t, r = .next t ∧ t.peek a = highWord v ∧ t.peek (a + 1#16) = lowWord v
    ∧ t.comparisonIs (compareZero (highWord v)) ∧ SameCounters s t ∧ SameDevices s t
    ∧ Frame s t [a, a + 1#16] maskCB

/-- A double-length left shift's result. -/
def StoresShift2 (s : State) (r : Result) (a : Word) (v : DWord) (overflow : Bool) : Prop :=
  ∃ t, r = .next t ∧ t.peek a = highWord v ∧ t.peek (a + 1#16) = lowWord v
    ∧ t.comparisonIs (compareZero (highWord v)) ∧ bit t.cpu.st bitOI = overflow ∧ SameCounters s t ∧ SameDevices s t
    ∧ Frame s t [a, a + 1#16] (maskOI ||| maskCB)

/-- The active counter holds `target`, and nothing else changes. -/
def Branches (s : State) (r : Result) (target : Word) : Prop :=
  ∃ t, r = .next t ∧ Counts s t target ∧ SameDevices s t ∧ Frame s t [] 0#16

/-- A status block's two words at `ea`: a counter value and `ST` as it was; `mode` and both counters afterwards. -/
def StoresBlock (s : State) (r : Result) (ea counter : Word) (mode : Mode) (pc ec : Word) : Prop :=
  ∃ t, r = .next t ∧ t.peek ea = counter ∧ t.peek (ea + 1#16) = s.cpu.st ∧ t.mode = mode ∧ t.cpu.pc = pc ∧ t.cpu.ec = ec
    ∧ SameDevices s t ∧ Frame s t [ea, ea + 1#16] maskMI

/-- A change of mode, and both counters afterwards. -/
def Transfers (s : State) (r : Result) (mode : Mode) (pc ec : Word) : Prop :=
  ∃ t, r = .next t ∧ t.mode = mode ∧ t.cpu.pc = pc ∧ t.cpu.ec = ec ∧ SameDevices s t ∧ Frame s t [] maskMI

/-! ### Sums and shifts, spelled out (R151) -/

/-- An integer does not fit `w` bits as a two's-complement number. -/
def overflows (w : Nat) (x : Int) : Bool := decide (x < -(2 ^ (w - 1) : Int) ∨ (2 ^ (w - 1) : Int) - 1 < x)

/-- How many of the sixteen bits are 1. -/
def onesOf (v : Word) : Word := BitVec.ofNat 16 ((List.range 16).countP (fun i => bit v i))

/-- Some single-place step of a left shift by `c` changes the sign bit. -/
def signChanges {w : Nat} (v : BitVec w) (c : Nat) : Bool :=
  (List.range c).any (fun k => (v <<< k).msb != (v <<< (k + 1)).msb)

/-- The comparison of two integers. -/
def order (x y : Int) : Comparison := if x > y then .greater else if x = y then .equal else .less

/-! ### Where protection suppresses a store (R70, D10) -/

/-- The instruction ends as ever but that MV is raised and nothing is stored: the result's comparison code, `OI`, the counters. -/
def SuppressesStore (s : State) (r : Result) (v flags : Word) (overflow : Bool) : Prop :=
  ∃ t, r = .next t ∧ t.comparisonIs (compareZero v) ∧ bit t.cpu.st bitOI = overflow ∧ SameCounters s t ∧ SameDevices s t
    ∧ Frame (s.raiseInternal .mv) t [] flags

/-- A double-length result of which at least one word is suppressed: the other is stored. -/
def SuppressesStore2 (s : State) (r : Result) (a : Word) (v : DWord) (flags : Word) (overflow : Bool) : Prop :=
  ∃ t, r = .next t ∧ (s.storable a = true → t.peek a = highWord v)
    ∧ (s.storable (a + 1#16) = true → t.peek (a + 1#16) = lowWord v)
    ∧ t.comparisonIs (compareZero (highWord v)) ∧ bit t.cpu.st bitOI = overflow ∧ SameCounters s t ∧ SameDevices s t
    ∧ Frame (s.raiseInternal .mv) t ([a, a + 1#16].filter s.storable) flags

/-- A status block of which at least one word is suppressed: the other is stored, mode and counters as ever. That the stored
`ST` holds the MV which a suppressed first word has raised is the model's inference from the order of a rule's steps (R75, D21;
log 35, DEDUCED). -/
def SuppressesBlock (s : State) (r : Result) (ea counter : Word) (mode : Mode) (pc ec : Word) : Prop :=
  ∃ t, r = .next t ∧ (s.storable ea = true → t.peek ea = counter)
    ∧ (s.storable (ea + 1#16) = true →
        t.peek (ea + 1#16) = (if s.blocked ea then s.cpu.st ||| 0x0400#16 else s.cpu.st))
    ∧ t.mode = mode ∧ t.cpu.pc = pc ∧ t.cpu.ec = ec ∧ SameDevices s t
    ∧ Frame (s.raiseInternal .mv) t ([ea, ea + 1#16].filter s.storable) maskMI

/-- The shifts of one word, ST, STPS and SAT at a protected address. -/
def State.SuppressedWords (s : State) : Prop :=
  ∀ (reg : RegRef) (adr : Address) (e : Word) (oi : Bool), e = s.eff adr → oi = bit s.cpu.st bitOI →
    s.addressReads adr = true → s.blocked e = true →
    SuppressesStore s (exec (.st reg adr) s) (s.reg (s.regOf reg)) maskCB oi ∧
    SuppressesStore s (exec (.stps adr) s) s.panel.data maskCB oi ∧
    ∀ (v : Word) (c count n : Nat), s.sound e = true → v = s.peek e →
      c = (if (s.reg (s.regOf reg)).toNat % 16 = 0 then 16 else (s.reg (s.regOf reg)).toNat % 16) →
      SuppressesStore s (exec (.mlax reg adr) s) (v <<< c) (maskOI ||| maskCB) (signChanges v c) ∧
      SuppressesStore s (exec (.mrax reg adr) s) (v.sshiftRight c) maskCB oi ∧
      SuppressesStore s (exec (.mrrx reg adr) s) (v.rotateRight c) maskCB oi ∧
      SuppressesStore s (exec (.mla count adr) s) (v <<< count) (maskOI ||| maskCB) (signChanges v count) ∧
      SuppressesStore s (exec (.mra count adr) s) (v.sshiftRight count) maskCB oi ∧
      SuppressesStore s (exec (.mrr count adr) s) (v.rotateRight count) maskCB oi ∧
      ((∀ k, k < n → bit v k = false) → (n < 16 → bit v n = true) → n ≤ 16 →
        ∃ t, exec (.sat reg adr) s = .next t ∧ t.reg (s.regOf reg) = s.reg (s.regOf reg) + BitVec.ofNat 16 n ∧
          bit t.cpu.st bitCO = decide (0x10000 ≤ (s.reg (s.regOf reg)).toNat + n) ∧
          t.comparisonIs (compareZero (s.reg (s.regOf reg) + BitVec.ofNat 16 n)) ∧ SameCounters s t ∧ SameDevices s t ∧
          Frame (s.raiseInternal .mv) t [regAddress (s.regOf reg)] (maskCO ||| maskCB))

/-- The shifts of a double word of which a word is protected. -/
def State.SuppressedDoubleWords (s : State) : Prop :=
  ∀ (reg : RegRef) (adr : Address) (e : Word) (v : DWord) (oi : Bool) (c count : Nat), e = s.eff adr →
    oi = bit s.cpu.st bitOI → s.operandReads2 adr = true → s.blocked e = true ∨ s.blocked (e + 1#16) = true →
    v = s.peek2 e →
    c = (if (s.reg (s.regOf reg)).toNat % 32 = 0 then 32 else (s.reg (s.regOf reg)).toNat % 32) →
    SuppressesStore2 s (exec (.dlax reg adr) s) e (v <<< c) (maskOI ||| maskCB) (signChanges v c) ∧
    SuppressesStore2 s (exec (.drax reg adr) s) e (v.sshiftRight c) maskCB oi ∧
    SuppressesStore2 s (exec (.drlx reg adr) s) e (v >>> c) maskCB oi ∧
    SuppressesStore2 s (exec (.drrx reg adr) s) e (v.rotateRight c) maskCB oi ∧
    SuppressesStore2 s (exec (.dla count adr) s) e (v <<< count) (maskOI ||| maskCB) (signChanges v count) ∧
    SuppressesStore2 s (exec (.dra count adr) s) e (v.sshiftRight count) maskCB oi ∧
    SuppressesStore2 s (exec (.drl count adr) s) e (v >>> count) maskCB oi ∧
    SuppressesStore2 s (exec (.drr count adr) s) e (v.rotateRight count) maskCB oi

/-- The status blocks of which a word is protected. -/
def State.SuppressedBlocks (s : State) : Prop :=
  ∀ (rq : Bool) (adr : Address) (e b bs bw : Word), e = s.eff adr → s.addressReads adr = true →
    s.blocked e = true ∨ s.blocked (e + 1#16) = true → b = (if rq then s.active 5 else 0#16) →
    bs = (if rq then s.reg (fileIndex .supervisor 5) else 0#16) →
    bw = (if rq then s.reg (fileIndex .worker 5) else 0#16) →
    SuppressesBlock s (exec (.ss rq adr) s) e (s.lc - b) s.mode s.cpu.pc s.cpu.ec ∧
    SuppressesBlock s (exec (.sxs rq adr) s) e (s.cpu.pc - bs) .supervisor s.cpu.pc s.cpu.ec ∧
    SuppressesBlock s (exec (.sxw rq adr) s) e (s.cpu.ec - bw) .worker s.cpu.pc s.cpu.ec ∧
    (s.sound (e + 2#16) = true →
      SuppressesBlock s (exec (.ssb rq adr) s) e (s.lc - b) s.mode
        (if s.mode = .supervisor then s.peek (e + 2#16) + b else s.cpu.pc)
        (if s.mode = .worker then s.peek (e + 2#16) + b else s.cpu.ec) ∧
      SuppressesBlock s (exec (.sxbs rq adr) s) e (s.cpu.pc - bs) .supervisor (s.peek (e + 2#16) + bs) s.cpu.ec ∧
      SuppressesBlock s (exec (.sxbw rq adr) s) e (s.cpu.ec - bw) .worker s.cpu.pc (s.peek (e + 2#16) + bw))

/-- MOV, AMI, SETF and STCR at a protected address. -/
def State.SuppressedGroupWords (s : State) : Prop :=
  (∀ (op1 op2 : BaseRef) (value : BitVec 13) (a a2 x : Word) (oi : Bool),
    a = s.active op1.base + BitVec.ofNat 16 op1.disp.toNat → a2 = s.active op2.base + BitVec.ofNat 16 op2.disp.toNat →
    s.sound a = true → x = s.peek a → oi = bit s.cpu.st bitOI →
    (s.blocked a2 = true → SuppressesStore s (exec (.mov op1 op2) s) x maskCB oi) ∧
    (s.blocked a = true →
      SuppressesStore s (exec (.ami op1 value) s) (x + value.signExtend 16) (maskOI ||| maskCO ||| maskCB)
        (overflows 16 (x.toInt + value.toInt)) ∧
      ∀ t, exec (.ami op1 value) s = .next t →
        bit t.cpu.st bitCO = decide (0x10000 ≤ x.toNat + (value.signExtend 16).toNat))) ∧
  (∀ (am : Bool) (flag : FlagRef) (v1 : Bool) (a w : Word),
    a = s.reg (fileIndex (if am then otherMode s.mode else s.mode) 6) + BitVec.ofNat 16 flag.m.toNat →
    s.sound a = true → s.blocked a = true →
    (∀ j, j < 16 → bit w j = if j = flag.b.val then v1 else bit (s.peek a) j) →
    ∃ t c, exec (.setf am flag v1) s = .next t ∧ t.comparisonIs c ∧ (s.config.setfPolicy = .word → c = compareZero w) ∧
      SameCounters s t ∧ SameDevices s t ∧ Frame (s.raiseInternal .mv) t [] maskCB) ∧
  (∀ (am : Bool) (m n : BitVec 10) (width : Nat) (line : CruLine) (a v : Word),
    line = BitVec.ofNat 12 (m.toNat + (s.reg (fileIndex (if am then otherMode s.mode else s.mode) 7)).toNat) →
    a = s.reg (fileIndex (if am then otherMode s.mode else s.mode) 4) + BitVec.ofNat 16 n.toNat →
    s.blocked a = true → 1 ≤ width → width ≤ 16 →
    (∀ k, k < width → s.hasInput (line + BitVec.ofNat 12 k) = true) →
    (∀ j, j < 16 →
      bit v (15 - j) = lineLevel s.cru.inputs (line + BitVec.ofNat 12 (if j < width then j else width - 1))) →
    SuppressesStore s (exec (.stcr am m width n) s) v maskCB (bit s.cpu.st bitOI))

/-! ### The encodings R120 to R122 list -/

/-- The undefined operation codes of R120: values of bits 0 to 5; those with one value of bit 8; and the format I-C
extensions, bit 8 and bits 13 to 15. -/
def undefinedPair (p : DWord) : Bool :=
  let op := p.toNat / 2 ^ 26
  let k := p.toNat / 2 ^ 23 % 2
  let e := p.toNat / 2 ^ 16 % 8
  decide (op ≤ 1) || (decide (0x23 ≤ op) && decide (op ≤ 0x2F)) || decide (0x3C ≤ op)
    || (op == 0x12 && k == 0) || (op == 0x1B && k == 1) || (op == 0x39 && k == 0) || (op == 0x3A && k == 1)
    || (op == 0x3B && k == 1)
    || (op == 0x1C && [(0, 3), (0, 6), (1, 3), (1, 4), (1, 5), (1, 6), (1, 7)].contains (k, e))
    || (op == 0x1E && (k == 0 || e == 3 || e == 7))
    || (op == 0x1F && (k == 1 || e != 0))

/-- The bits R121 names as unused: I-D bits 6 and 7; I-F bits 12 to 15; `n` in III-A and III-C; bits 16 to 19 in III-C and
III-D; `v1` in III-F; in NOP, XS and XW bits 6, 7, 9 to 12 and the second word; the bits of BRRL and TSBX that their
parameters leave. -/
def unusedBits (L : Layout) : Instr → DWord
  | .arb _ _ _ _ => 0x03000000#32
  | .stps _ => 0x000F0000#32
  | .setf _ _ _ | .xfne _ _ _ => 0x000003FF#32
  | .setb _ _ _ | .xbne _ _ _ => 0x0000F3FF#32
  | .bbne _ _ _ _ => 0x0000F000#32
  | .ldcr _ _ _ _ | .stcr _ _ _ _ => 0x00000800#32
  | .nop | .xs | .xw => 0x0378FFFF#32
  | .brrl _ _ =>
    match L.brrl with
    | .bit16 => 0x03FF0000#32
    | .bit13 => 0x03F8E000#32
  | .tsbx _ _ _ _ _ =>
    match L.tsbx with
    | .bit16 => 0x00007000#32
    | .bit17 => 0x0000B000#32
    | .bit18 => 0x0000D000#32
    | .bit19 => 0x0000E000#32
  | .a _ _ | .aa _ _ | .bl _ _ | .starBL _ _ | .cr _ _ | .cra _ _ | .crl _ _ | .crla _ _ | .d _ _ | .da _ _
  | .dad _ _ | .dlax _ _ | .drax _ _ | .drlx _ _ | .drrx _ _ | .ds _ _ | .l _ _ | .la _ _ | .lot _ _ | .lota _ _
  | .m _ _ | .ma _ _ | .mlax _ _ | .mrax _ _ | .mrrx _ _ | .n _ _ | .na _ _ | .or _ _ | .ora _ _ | .s _ _ | .sa _ _
  | .sat _ _ | .st _ _ | .xor _ _ | .xora _ _ | .bc _ _ | .starBC _ _ | .dla _ _ | .dra _ _ | .drl _ _ | .drr _ _
  | .mla _ _ | .mra _ _ | .mrr _ _ | .b _ _ | .starB _ _ | .lds _ _ | .ss _ _ | .ssb _ _ | .sxbs _ _ | .sxbw _ _
  | .sxs _ _ | .sxw _ _ | .xsb _ _ | .starXSB _ _ | .xwb _ _ | .starXWB _ _ | .adac _ _ | .cm _ _ | .cml _ _
  | .mov _ _ | .ami _ _ | .cmi _ _ | .bfne _ _ _ _ => 0#32

/-- The fourteen optional instructions, as R122 lists them. -/
def needsBoard : Instr → Bool
  | .d _ _ | .da _ _ | .dad _ _ | .ds _ _ | .m _ _ | .ma _ _ | .dla _ _ | .dlax _ _ | .dra _ _ | .drax _ _ | .drl _ _
  | .drlx _ _ | .drr _ _ | .drrx _ _ => true
  | .a _ _ | .aa _ _ | .bl _ _ | .starBL _ _ | .cr _ _ | .cra _ _ | .crl _ _ | .crla _ _ | .l _ _ | .la _ _
  | .lot _ _ | .lota _ _ | .mlax _ _ | .mrax _ _ | .mrrx _ _ | .n _ _ | .na _ _ | .or _ _ | .ora _ _ | .s _ _
  | .sa _ _ | .sat _ _ | .st _ _ | .xor _ _ | .xora _ _ | .bc _ _ | .starBC _ _ | .mla _ _ | .mra _ _ | .mrr _ _
  | .b _ _ | .starB _ _ | .lds _ _ | .nop | .ss _ _ | .ssb _ _ | .sxbs _ _ | .sxbw _ _ | .sxs _ _ | .sxw _ _ | .xs
  | .xsb _ _ | .starXSB _ _ | .xw | .xwb _ _ | .starXWB _ _ | .arb _ _ _ _ | .adac _ _ | .stps _ | .cm _ _
  | .cml _ _ | .mov _ _ | .brrl _ _ | .ami _ _ | .cmi _ _ | .setf _ _ _ | .xfne _ _ _ | .bfne _ _ _ _ | .setb _ _ _
  | .xbne _ _ _ | .bbne _ _ _ _ | .tsbx _ _ _ _ _ | .ldcr _ _ _ _ | .stcr _ _ _ _ => false

end Sys2Proof.Machine
end

