-- ==== Sys2Proof/Certificates/Slice0/Obligations.lean ====
section
/-! DEFINITION. The statements for the provers. -/

open Sys2Proof Sys2Proof.Machine

/-! ### Encoding -/

/-- Decoding the encoding of a well-formed instruction gives it back, for every place of the fields R117 leaves open
(30_encoding.md R102 to R119; the places are D15's and D16's). -/
def Obligations.DecodeEncodeAgree : Prop :=
  ∀ (L : Layout) (i : Instr), i.wellFormed = true → decode L (encode L i) = .ok i

/-- The undefined operation codes are the encodings R120 lists and no others (D3). -/
def Obligations.UndefinedCodesAreTheListed : Prop :=
  ∀ (L : Layout) (p : DWord), (∃ r, decode L p = .error r) ↔ undefinedPair p = true

/-- Whatever decodes is well-formed, a 4-bit count field of 0 meaning 16 (R104, R115); and the bits R121 names as unused take no
part: pairs that agree in every other bit decode alike (D4). -/
def Obligations.UnusedBitsIgnored : Prop :=
  ∀ (L : Layout) (p : DWord) (i : Instr), decode L p = .ok i →
    i.wellFormed = true ∧ ∀ q : DWord, p &&& ~~~unusedBits L i = q &&& ~~~unusedBits L i → decode L q = .ok i

/-- Without the Arithmetic Option board the fourteen optional instructions are undefined codes and no other instruction is
(R122, D25). -/
def Obligations.OptionalNeedTheBoard : Prop :=
  ∀ (c : Config) (p : DWord) (i : Instr), decode c.layout p = .ok i →
    decodeFor c p = if c.hasArithOption then some i else if needsBoard i then none else some i

/-- Words of the manual's listings decode to the instructions printed beside them. -/
def Obligations.ListedWordsDecode : Prop :=
  decodeTableWord 32 0x4482000F = some (.la { alt := false, r := 2 } (.direct 15#16)) ∧
  decodeTableWord 32 0x4640000F = some (.l { alt := false, r := 0 } (.indexed 4 15#16)) ∧
  decodeTableWord 32 0x7980007F = some (.sxbs false (.indirect 127#16)) ∧
  decodeTableWord 32 0x0C0F009E = some (.arb false 0 0xF#4 0x009E#16) ∧
  decodeTableWord 32 0x14039416 = some (.mov { disp := 3#10, base := 4 } { disp := 0x016#10, base := 5 }) ∧
  decodeTableWord 32 0x1C005FF0 = some (.cmi { disp := 0#10, base := 2 } 0x1FF0#13) ∧
  decodeTableWord 32 0x8404181A = some (.bfne false { m := 4#10, b := 1 } true 0x01A#10)

/-! ### One step -/

/-- In RUN, with no agent's turn before the processor's and no request to take, a step fetches the pair at the location
counter, moves the counter past it, and is the execution of the instruction it decodes to (R26, R377). `IA` and `IB` hold
the pair (R29). The sampling between instructions is D6's. -/
def Obligations.StepRunsTheDecodedInstruction : Prop :=
  ∀ (s : State) (i : Instr), s.schedule = [] → s.powered = true → s.running = true → s.clockRuns = true →
    s.requested = none → s.sound s.lc = true → s.sound (s.lc + 1#16) = true →
    decodeFor s.config (pairOf (s.peek s.lc) (s.peek (s.lc + 1#16))) = some i →
    step s = exec i (((s.setIa (s.peek s.lc)).setIb (s.peek (s.lc + 1#16))).setLc (s.lc + 2#16))

/-- An undefined code met through the location counter sets `UC`, requests the internal interrupt, moves the counter on when
`UC_LC_ADVANCE`, and changes nothing else but `IA` and `IB`: the next state is written out (R374, D3). Whether a masked
request waits is `INTERNAL_MASKED_POLICY`'s (R378). -/
def Obligations.UndefinedCodeInterrupts : Prop :=
  ∀ s : State, s.schedule = [] → s.powered = true → s.running = true → s.clockRuns = true → s.requested = none →
    s.sound s.lc = true → s.sound (s.lc + 1#16) = true →
    decodeFor s.config (pairOf (s.peek s.lc) (s.peek (s.lc + 1#16))) = none →
    step s = .next
      (((((s.setIa (s.peek s.lc)).setIb (s.peek (s.lc + 1#16))).setLc
          (if s.config.ucLcAdvance then s.lc + 2#16 else s.lc)).setSt (s.cpu.st ||| 0x0800#16)).setPending
        (if bit s.cpu.st bitII && s.config.maskedPolicy == .drop then s.cpu.internalPending else true))

/-- Every instruction completes in either mode on any operands: none halts the processor, none is privileged, none touches
the panel, the installation or the schedule, and none but LDS changes a mask, the index mode or a reserved bit or clears a
cause bit (R49, R224, R400). That none stops on a bad or absent word is U1's and U9's (logs 10 and 11). -/
def Obligations.EveryInstructionCompletes : Prop :=
  ∀ (i : Instr) (s : State), ∃ t, exec i s = .next t ∧ t.running = s.running ∧ t.powered = s.powered ∧
    t.panel = s.panel ∧ t.config = s.config ∧ t.schedule = s.schedule ∧ t.cpu.ia = s.cpu.ia ∧
    ((∀ rq adr, i ≠ .lds rq adr) →
      t.cpu.st &&& 0x03C3#16 = s.cpu.st &&& 0x03C3#16 ∧
      s.cpu.st &&& 0x3C00#16 = s.cpu.st &&& t.cpu.st &&& 0x3C00#16)

/-- The table of R40: an instruction changes no bit of `ST` but those it writes, and `MP` and `MV`, which its own accesses can
set and not clear. MLAX and SETF are as the conflicts C7 and C8 resolve them. -/
def Obligations.IndicatorsWritten : Prop :=
  ∀ (i : Instr) (s t : State), exec i s = .next t → StatusStep s.cpu.st t.cpu.st (flagsWritten i)

/-- No step of the processor, an instruction or an interrupt entry, alters a protected word while the override is off
(R70). The schedule is the model's (log 4). -/
def Obligations.ProtectedWordsKept : Prop :=
  ∀ (s t : State) (a : Word), s.schedule = [] → step s = .next t → s.blocked a = true → t.peek a = s.peek a

/-- Every step, of whichever agent, keeps memory in its canonical form and on installed words outside the register window,
the bad words and the CRU lines at 1 listed once each in order, and RUN to a machine with its power and MODE switch on. The
forms are the model's own (logs 5, 11 and 26). -/
def Obligations.StepKeepsInvariant : Prop :=
  ∀ s t : State, s.Inv → step s = .next t → t.Inv

/-- The state after reset has the invariant. -/
def Obligations.ResetHasInvariant : Prop := State.reset.Inv

/-! ### Memory, registers and protection -/

/-- A read returns the value of the most recent write to that address, and a write leaves every other word alone, at every
address that can be written, a register's among them (R63, R75, D21). -/
def Obligations.ReadAfterWrite : Prop :=
  ∀ (s : State) (a v b : Word), s.storable a = true →
    (s.write a v).read a = (v, s.write a v) ∧ (b ≠ a → (s.write a v).peek b = s.peek b) ∧
    (s.write a v).cpu.st = s.cpu.st

/-- Memories in canonical form that read alike are equal, and every write keeps the form (the model's own form, log 5). -/
def Obligations.CanonicalMemory : Prop :=
  (∀ m n : Memory, m.wf = true → n.wf = true → (∀ k, m.readByte k = n.readByte k) → m = n) ∧
  (∀ (m : Memory) (k : Nat) (v : Byte), m.wf = true →
    (m.writeByte k v).wf = true ∧ ∀ j, (m.writeByte k v).readByte j = if j = k then v else m.readByte j)

/-- The registers are the addresses `0x80` to `0x8F` in either mode: a supervisor register `r` at `0x80 + r`, a worker
register `r` at `0x88 + r`, read and written there with no protection check (R22, R63). -/
def Obligations.RegisterWindow : Prop :=
  ∀ (s : State) (r : RegNo) (v : Word),
    s.read (0x80#16 + BitVec.ofNat 16 r.val) = (s.reg (fileIndex .supervisor r), s) ∧
    s.read (0x88#16 + BitVec.ofNat 16 r.val) = (s.reg (fileIndex .worker r), s) ∧
    s.write (0x80#16 + BitVec.ofNat 16 r.val) v = s.setReg (fileIndex .supervisor r) v ∧
    s.write (0x88#16 + BitVec.ofNat 16 r.val) v = s.setReg (fileIndex .worker r) v

/-- A word is protected exactly when it is at or below the limit, one of the ten of R71, and outside `0x80` to `0xA7`; with the
override off a write to it stores nothing and raises MV, with the override on it stores (R70 to R72). The instruction's other
effects take place as if the write had succeeded (D10), in every instruction that stores: ST, STPS, SAT, MOV, AMI, SETF, STCR,
the shifts of one word and of two, and the status blocks, of which a word that is not protected is stored. That the status
word of such a block holds the MV its suppressed first word raised is the model's inference from the order of a rule's steps
(R75, D21; log 35, DEDUCED). -/
def Obligations.ProtectedWriteRaises : Prop :=
  ∀ (s : State) (a v : Word),
    (s.isProtected a = true ↔
      a.toNat ≤
        (match s.config.protectLimit with
        | .to007F => 0x007F
        | .to00FF => 0x00FF
        | .to01FF => 0x01FF
        | .to03FF => 0x03FF
        | .to07FF => 0x07FF
        | .to0FFF => 0x0FFF
        | .to1FFF => 0x1FFF
        | .to3FFF => 0x3FFF
        | .to7FFF => 0x7FFF
        | .toFFFF => 0xFFFF) ∧
      (a.toNat < 0x80 ∨ 0xA7 < a.toNat)) ∧
    (s.isProtected a = true → s.panel.mpo = false →
      s.write a v = s.raiseInternal .mv ∧ bit (s.write a v).cpu.st bitMV = true ∧
      ∀ b, (s.write a v).peek b = s.peek b) ∧
    ((s.isProtected a = false ∨ s.panel.mpo = true) → s.write a v = s.store a v) ∧
    (∀ (reg : RegRef) (adr : Address), s.addressReads adr = true → s.eff adr = a → s.isProtected a = true →
      s.panel.mpo = false → ∃ t, exec (.st reg adr) s = .next t ∧ t.comparisonIs (compareZero (s.reg (s.regOf reg))) ∧
        bit t.cpu.st bitMV = true ∧ SameCounters s t ∧ SameDevices s t ∧ ∀ b, t.peek b = s.peek b) ∧
    s.SuppressedWords ∧ s.SuppressedDoubleWords ∧ s.SuppressedBlocks ∧ s.SuppressedGroupWords

/-- A word whose check bits are bad reads as a free value and raises MP (R372, U1); writing it makes its check bits valid
(R48). The instruction completes with the free value: L of it loads and tests it. -/
def Obligations.ParityErrorRaises : Prop :=
  ∀ (s : State) (a : Word) (k : Nat), placeOf a = .memory k → s.installed k = true → s.checkFails.contains k = true →
    s.read a = (Config.freeWord s.freeCount, s.useFree.raiseInternal .mp) ∧
    bit (s.read a).2.cpu.st bitMP = true ∧ (s.store a 0#16).sound a = true ∧
    ∀ reg : RegRef, ∃ t, exec (.l reg (.direct a)) s = .next t ∧ t.reg (s.regOf reg) = Config.freeWord s.freeCount ∧
      t.comparisonIs (compareZero (Config.freeWord s.freeCount)) ∧ bit t.cpu.st bitMP = true

/-! ### Format I-A -/

/-- L, LOT, N, OR and XOR: the register takes the operand, its ones tally, or its combination with the register; the result
is tested; nothing else changes (R169, R171, R178, R180, R186). -/
def Obligations.RegisterLoadsAndLogic : Prop :=
  ∀ (s : State) (reg : RegRef) (adr : Address), s.operandReads adr = true →
    PutsResult s (exec (.l reg adr) s) (s.regOf reg) (s.peek (s.eff adr)) ∧
    PutsResult s (exec (.lot reg adr) s) (s.regOf reg) (onesOf (s.peek (s.eff adr))) ∧
    PutsResult s (exec (.n reg adr) s) (s.regOf reg) (s.reg (s.regOf reg) &&& s.peek (s.eff adr)) ∧
    PutsResult s (exec (.or reg adr) s) (s.regOf reg) (s.reg (s.regOf reg) ||| s.peek (s.eff adr)) ∧
    PutsResult s (exec (.xor reg adr) s) (s.regOf reg) (s.reg (s.regOf reg) ^^^ s.peek (s.eff adr))

/-- LA, LOTA, NA, ORA and XORA: the same with the effective address itself as the operand (R111, R170, R172, R179, R181,
R187). -/
def Obligations.ImmediateLoadsAndLogic : Prop :=
  ∀ (s : State) (reg : RegRef) (adr : Address), s.addressReads adr = true →
    PutsResult s (exec (.la reg adr) s) (s.regOf reg) (s.eff adr) ∧
    PutsResult s (exec (.lota reg adr) s) (s.regOf reg) (onesOf (s.eff adr)) ∧
    PutsResult s (exec (.na reg adr) s) (s.regOf reg) (s.reg (s.regOf reg) &&& s.eff adr) ∧
    PutsResult s (exec (.ora reg adr) s) (s.regOf reg) (s.reg (s.regOf reg) ||| s.eff adr) ∧
    PutsResult s (exec (.xora reg adr) s) (s.regOf reg) (s.reg (s.regOf reg) ^^^ s.eff adr)

/-- A and AA: the sum with its carry and signed overflow (R151, R153, R154). -/
def Obligations.AddsToRegister : Prop :=
  ∀ (s : State) (reg : RegRef) (adr : Address) (x : Word), x = s.reg (s.regOf reg) →
    (s.operandReads adr = true →
      PutsSum s (exec (.a reg adr) s) (s.regOf reg) (x + s.peek (s.eff adr))
        (decide (0x10000 ≤ x.toNat + (s.peek (s.eff adr)).toNat))
        (overflows 16 (x.toInt + (s.peek (s.eff adr)).toInt))) ∧
    (s.addressReads adr = true →
      PutsSum s (exec (.aa reg adr) s) (s.regOf reg) (x + s.eff adr) (decide (0x10000 ≤ x.toNat + (s.eff adr).toNat))
        (overflows 16 (x.toInt + (s.eff adr).toInt)))

/-- S and SA: the difference with its signed overflow; the carry is that of adding the complement plus one (R151, R182, R183,
D11). -/
def Obligations.SubtractsFromRegister : Prop :=
  ∀ (s : State) (reg : RegRef) (adr : Address) (x : Word), x = s.reg (s.regOf reg) →
    (s.operandReads adr = true →
      PutsSum s (exec (.s reg adr) s) (s.regOf reg) (x - s.peek (s.eff adr))
        (decide (0x10000 ≤ x.toNat + (~~~s.peek (s.eff adr)).toNat + 1))
        (overflows 16 (x.toInt - (s.peek (s.eff adr)).toInt))) ∧
    (s.addressReads adr = true →
      PutsSum s (exec (.sa reg adr) s) (s.regOf reg) (x - s.eff adr)
        (decide (0x10000 ≤ x.toNat + (~~~s.eff adr).toNat + 1)) (overflows 16 (x.toInt - (s.eff adr).toInt)))

/-- CR, CRA, CRL and CRLA write the comparison code only: signed for CR and CRA, unsigned for CRL and CRLA (R157 to R160). -/
def Obligations.RegisterCompares : Prop :=
  ∀ (s : State) (reg : RegRef) (adr : Address) (x : Word), x = s.reg (s.regOf reg) →
    (s.operandReads adr = true →
      PutsComparison s (exec (.cr reg adr) s) (order x.toInt (s.peek (s.eff adr)).toInt) ∧
      PutsComparison s (exec (.crl reg adr) s) (order x.toNat (s.peek (s.eff adr)).toNat)) ∧
    (s.addressReads adr = true →
      PutsComparison s (exec (.cra reg adr) s) (order x.toInt (s.eff adr).toInt) ∧
      PutsComparison s (exec (.crla reg adr) s) (order x.toNat (s.eff adr).toNat))

/-- ST stores the register, STPS the setting of the DATA switches, at the effective address, and tests what it stores (R185,
R253). -/
def Obligations.StoreRegisterOrSwitches : Prop :=
  ∀ (s : State) (reg : RegRef) (adr : Address), s.addressReads adr = true → s.storable (s.eff adr) = true →
    StoresResult s (exec (.st reg adr) s) (s.eff adr) (s.reg (s.regOf reg)) ∧
    StoresResult s (exec (.stps adr) s) (s.eff adr) s.panel.data

/-- BL and *BL put the address of the instruction itself, the counter less two, in the register, and branch; *BL always
pre-indexes (R155, R156). -/
def Obligations.BranchAndLink : Prop :=
  ∀ (s : State) (reg : RegRef) (adr : Address),
    (s.addressReads adr = true →
      ∃ t, exec (.bl reg adr) s = .next t ∧ t.reg (s.regOf reg) = s.lc - 2#16 ∧ Counts s t (s.eff adr) ∧
        SameDevices s t ∧ Frame s t [regAddress (s.regOf reg)] 0#16) ∧
    (s.operandReadsPre adr = true →
      ∃ t, exec (.starBL reg adr) s = .next t ∧ t.reg (s.regOf reg) = s.lc - 2#16 ∧
        Counts s t (s.peek (s.ea true adr)) ∧ SameDevices s t ∧ Frame s t [regAddress (s.regOf reg)] 0#16)

/-- SAT: the operand shifted left until bit 0 is 1, that bit then cleared, is stored; the number of places is added to the
register, with carry and no overflow indicator (R184). That the tally is added to what was stored, where the operand is the
register itself, is the model's inference from D21's order of a rule's steps (log 35, DEDUCED). -/
def Obligations.ShiftAndAddTally : Prop :=
  ∀ (s : State) (reg : RegRef) (adr : Address) (e v old : Word) (n : Nat), s.operandReads adr = true →
    e = s.eff adr → s.storable e = true →
    (∀ k, k < n → bit (s.peek e) k = false) → (n < 16 → bit (s.peek e) n = true) → n ≤ 16 →
    v = (s.peek e <<< n) &&& 0x7FFF#16 → old = (if e = regAddress (s.regOf reg) then v else s.reg (s.regOf reg)) →
    ∃ t, exec (.sat reg adr) s = .next t ∧ t.reg (s.regOf reg) = old + BitVec.ofNat 16 n ∧
      (e ≠ regAddress (s.regOf reg) → t.peek e = v) ∧ bit t.cpu.st bitCO = decide (0x10000 ≤ old.toNat + n) ∧
      t.comparisonIs (compareZero (old + BitVec.ofNat 16 n)) ∧ SameCounters s t ∧ SameDevices s t ∧
      Frame s t [e, regAddress (s.regOf reg)] (maskCO ||| maskCB)

/-- The single-word shifts with the count in a register, bits 12 to 15, 0 meaning 16 (R175 to R177; the left
shift's overflow is D14's). -/
def Obligations.RegisterCountShifts : Prop :=
  ∀ (s : State) (reg : RegRef) (adr : Address) (e v : Word) (c : Nat), s.operandReads adr = true → e = s.eff adr →
    s.storable e = true → v = s.peek e →
    c = (if (s.reg (s.regOf reg)).toNat % 16 = 0 then 16 else (s.reg (s.regOf reg)).toNat % 16) →
    StoresShift s (exec (.mlax reg adr) s) e (v <<< c) (signChanges v c) ∧
    StoresResult s (exec (.mrax reg adr) s) e (v.sshiftRight c) ∧
    StoresResult s (exec (.mrrx reg adr) s) e (v.rotateRight c)

/-- M and MA: the signed product in the register pair, its high half tested; the pair's second word is the word after the
register in the address space (R64, R173, R174; signedness D29). -/
def Obligations.Multiplies : Prop :=
  ∀ (s : State) (reg : RegRef) (adr : Address) (i : FileIndex), i = s.regOf reg →
    s.storable (regAddress i + 1#16) = true →
    (s.operandReads adr = true →
      PutsPair s (exec (.m reg adr) s) i (BitVec.ofInt 32 ((s.reg i).toInt * (s.peek (s.eff adr)).toInt)) maskCB
        (bit s.cpu.st bitOI)) ∧
    (s.addressReads adr = true →
      PutsPair s (exec (.ma reg adr) s) i (BitVec.ofInt 32 ((s.reg i).toInt * (s.eff adr).toInt)) maskCB
        (bit s.cpu.st bitOI))

/-- D and DA where the quotient fits: quotient and remainder with `q * d + rem = N`, the remainder smaller than the divisor and
of the dividend's sign; quotient in the pair's second word, remainder in the register and tested; `OI` = 0 (R161, R162; the
rounding is D12's). -/
def Obligations.Divides : Prop :=
  ∀ (s : State) (reg : RegRef) (adr : Address) (i : FileIndex) (d : Word) (q r : Int), i = s.regOf reg →
    s.storable (regAddress i + 1#16) = true → s.pairReads i = true → d ≠ 0#16 →
    (joinWords (s.reg i) (s.peek (regAddress i + 1#16))).toInt = q * d.toInt + r →
    r.natAbs < d.toInt.natAbs → 0 ≤ r * (joinWords (s.reg i) (s.peek (regAddress i + 1#16))).toInt →
    -32768 ≤ q → q ≤ 32767 →
    (s.operandReads adr = true → d = s.peek (s.eff adr) →
      PutsPair s (exec (.d reg adr) s) i (joinWords (BitVec.ofInt 16 r) (BitVec.ofInt 16 q)) (maskOI ||| maskCB) false) ∧
    (s.addressReads adr = true → d = s.eff adr →
      PutsPair s (exec (.da reg adr) s) i (joinWords (BitVec.ofInt 16 r) (BitVec.ofInt 16 q)) (maskOI ||| maskCB) false)

/-- D and DA on a zero divisor, or where the quotient rounded toward zero does not fit: `OI` = 1, no interrupt, and nothing but
the pair and the comparison bits is touched; what those hold is left free (R161, D13, U5). -/
def Obligations.DivideOverflows : Prop :=
  ∀ (s : State) (reg : RegRef) (adr : Address) (i : FileIndex) (d : Word), i = s.regOf reg →
    s.storable (regAddress i + 1#16) = true → s.pairReads i = true →
    (d = 0#16 ∨
      overflows 16 ((joinWords (s.reg i) (s.peek (regAddress i + 1#16))).toInt.tdiv d.toInt) = true) →
    (s.operandReads adr = true → d = s.peek (s.eff adr) →
      ∃ t, exec (.d reg adr) s = .next t ∧ bit t.cpu.st bitOI = true ∧ SameCounters s t ∧ SameDevices s t ∧
        Frame s t [regAddress i, regAddress i + 1#16] (maskOI ||| maskCB)) ∧
    (s.addressReads adr = true → d = s.eff adr →
      ∃ t, exec (.da reg adr) s = .next t ∧ bit t.cpu.st bitOI = true ∧ SameCounters s t ∧ SameDevices s t ∧
        Frame s t [regAddress i, regAddress i + 1#16] (maskOI ||| maskCB))

/-- DAD and DS: the 32-bit sum or difference in the register pair with its signed overflow, the high half tested, the carry
not written (R163, R168; the pair by address is D2's). -/
def Obligations.DoubleAddAndSubtract : Prop :=
  ∀ (s : State) (reg : RegRef) (adr : Address) (i : FileIndex) (x y : DWord), i = s.regOf reg →
    s.storable (regAddress i + 1#16) = true → s.pairReads i = true → s.operandReads2 adr = true →
    x = joinWords (s.reg i) (s.peek (regAddress i + 1#16)) → y = s.peek2 (s.eff adr) →
    PutsPair s (exec (.dad reg adr) s) i (x + y) (maskOI ||| maskCB) (overflows 32 (x.toInt + y.toInt)) ∧
    PutsPair s (exec (.ds reg adr) s) i (x - y) (maskOI ||| maskCB) (overflows 32 (x.toInt - y.toInt))

/-- The double-length shifts with the count in a register, bits 11 to 15, 0 meaning 32 (R164 to R167; zeros enter in DRLX,
D24; the left shift's overflow is D14's). -/
def Obligations.DoubleRegisterCountShifts : Prop :=
  ∀ (s : State) (reg : RegRef) (adr : Address) (e : Word) (v : DWord) (c : Nat), s.operandReads2 adr = true →
    e = s.eff adr → s.storable e = true → s.storable (e + 1#16) = true → v = s.peek2 e →
    c = (if (s.reg (s.regOf reg)).toNat % 32 = 0 then 32 else (s.reg (s.regOf reg)).toNat % 32) →
    StoresShift2 s (exec (.dlax reg adr) s) e (v <<< c) (signChanges v c) ∧
    StoresResult2 s (exec (.drax reg adr) s) e (v.sshiftRight c) ∧
    StoresResult2 s (exec (.drlx reg adr) s) e (v >>> c) ∧
    StoresResult2 s (exec (.drrx reg adr) s) e (v.rotateRight c)

/-! ### Format I-B -/

/-- BC and *BC test any bit of `ST` and write none; taken, the counter holds the effective address, or for *BC the operand at
the address formed with pre-indexing (R201, R202, R223; that a word is read even when
the branch is not taken is D31's). -/
def Obligations.ConditionalBranches : Prop :=
  ∀ (s : State) (r : Fin 16) (adr : Address),
    (s.addressReads adr = true →
      Branches s (exec (.bc r adr) s) (if bit s.cpu.st r.val then s.eff adr else s.lc)) ∧
    (s.operandReadsPre adr = true →
      Branches s (exec (.starBC r adr) s) (if bit s.cpu.st r.val then s.peek (s.ea true adr) else s.lc))

/-- The single-word shifts with the count in the instruction (R207 to R209; the left shift's overflow is D14's). -/
def Obligations.ImmediateCountShifts : Prop :=
  ∀ (s : State) (count : Nat) (adr : Address) (e v : Word), s.operandReads adr = true → e = s.eff adr →
    s.storable e = true → v = s.peek e →
    StoresShift s (exec (.mla count adr) s) e (v <<< count) (signChanges v count) ∧
    StoresResult s (exec (.mra count adr) s) e (v.sshiftRight count) ∧
    StoresResult s (exec (.mrr count adr) s) e (v.rotateRight count)

/-- The double-length shifts with the count in the instruction (R203 to R206; the left shift's overflow is D14's). -/
def Obligations.DoubleImmediateCountShifts : Prop :=
  ∀ (s : State) (count : Nat) (adr : Address) (e : Word) (v : DWord), s.operandReads2 adr = true → e = s.eff adr →
    s.storable e = true → s.storable (e + 1#16) = true → v = s.peek2 e →
    StoresShift2 s (exec (.dla count adr) s) e (v <<< count) (signChanges v count) ∧
    StoresResult2 s (exec (.dra count adr) s) e (v.sshiftRight count) ∧
    StoresResult2 s (exec (.drl count adr) s) e (v >>> count) ∧
    StoresResult2 s (exec (.drr count adr) s) e (v.rotateRight count)

/-- The overflow rule of the left shifts in its other form: bits 0 to `c` of the operand, with zeros beyond its end, are not
all equal (R151, D14). -/
def Obligations.ShiftOverflowIsUnequalBits : Prop :=
  ∀ (w c : Nat) (v : BitVec w),
    shiftOverflow v c = true ↔ ∃ k, k ≤ c ∧ v.getMsbD k ≠ v.getMsbD 0

/-! ### Format I-C -/

/-- B and *B load the active counter, with the active mode's register 5 when `rq`; *B always pre-indexes. NOP changes nothing
beyond the advance of the counter that precedes every instruction (R222, R223, R225). -/
def Obligations.UnconditionalBranches : Prop :=
  ∀ (s : State) (rq : Bool) (adr : Address),
    (s.addressReads adr = true →
      Branches s (exec (.b rq adr) s) (s.eff adr + (if rq then s.active 5 else 0#16))) ∧
    (s.operandReadsPre adr = true →
      Branches s (exec (.starB rq adr) s) (s.peek (s.ea true adr) + (if rq then s.active 5 else 0#16))) ∧
    exec .nop s = .next s

/-- LDS: the counter of the mode that executes it takes the first word plus that mode's register 5 when `rq`, then all of `ST`
takes the second word; no interrupt is requested by the bits it loads (R224, R376, D30). -/
def Obligations.LoadStatusBlock : Prop :=
  ∀ (s : State) (rq : Bool) (adr : Address), s.operandReads2 adr = true →
    ∃ t, exec (.lds rq adr) s = .next t ∧ Counts s t (s.peek (s.eff adr) + (if rq then s.active 5 else 0#16)) ∧
      t.cpu.st = s.peek (s.eff adr + 1#16) ∧ SameDevices s t ∧ Frame s t [] 0xFFFF#16

/-- SS and SSB store the active counter, less register 5 when `rq`, and `ST`; SSB then continues at the word after the block
(R226, R227). -/
def Obligations.StoreStatusBlocks : Prop :=
  ∀ (s : State) (rq : Bool) (adr : Address) (e b : Word), s.addressReads adr = true → e = s.eff adr →
    b = (if rq then s.active 5 else 0#16) → s.storable e = true → s.storable (e + 1#16) = true →
    StoresBlock s (exec (.ss rq adr) s) e (s.lc - b) s.mode s.cpu.pc s.cpu.ec ∧
    (s.sound (e + 2#16) = true →
      StoresBlock s (exec (.ssb rq adr) s) e (s.lc - b) s.mode
        (if s.mode = .supervisor then s.peek (e + 2#16) + b else s.cpu.pc)
        (if s.mode = .worker then s.peek (e + 2#16) + b else s.cpu.ec))

/-- SXBS and SXS store `PC` whatever the mode, SXBW and SXW store `EC`, each less its own mode's register 5 when `rq`, and `ST`
as it was; then the mode is the named one, and SXBS and SXBW continue at the word after the block (R228 to R231). -/
def Obligations.StoreBlockAndTransfer : Prop :=
  ∀ (s : State) (rq : Bool) (adr : Address) (e bs bw : Word), s.addressReads adr = true → e = s.eff adr →
    bs = (if rq then s.reg (fileIndex .supervisor 5) else 0#16) →
    bw = (if rq then s.reg (fileIndex .worker 5) else 0#16) → s.storable e = true → s.storable (e + 1#16) = true →
    StoresBlock s (exec (.sxs rq adr) s) e (s.cpu.pc - bs) .supervisor s.cpu.pc s.cpu.ec ∧
    StoresBlock s (exec (.sxw rq adr) s) e (s.cpu.ec - bw) .worker s.cpu.pc s.cpu.ec ∧
    (s.sound (e + 2#16) = true →
      StoresBlock s (exec (.sxbs rq adr) s) e (s.cpu.pc - bs) .supervisor (s.peek (e + 2#16) + bs) s.cpu.ec ∧
      StoresBlock s (exec (.sxbw rq adr) s) e (s.cpu.ec - bw) .worker s.cpu.pc (s.peek (e + 2#16) + bw))

/-- The transfers: XS, XSB and *XSB to Supervisor Mode, XW, XWB and *XWB to Worker Mode; the branching forms load the counter
of the mode entered, with that mode's register 5 when `rq` (R232 to R237). That *XSB and *XWB index in the order `ST.IM`
selects is an inference R223 marks as its own. -/
def Obligations.ModeTransfers : Prop :=
  ∀ (s : State) (rq : Bool) (adr : Address) (bs bw : Word),
    bs = (if rq then s.reg (fileIndex .supervisor 5) else 0#16) →
    bw = (if rq then s.reg (fileIndex .worker 5) else 0#16) →
    Transfers s (exec .xs s) .supervisor s.cpu.pc s.cpu.ec ∧
    Transfers s (exec .xw s) .worker s.cpu.pc s.cpu.ec ∧
    (s.addressReads adr = true →
      Transfers s (exec (.xsb rq adr) s) .supervisor (s.eff adr + bs) s.cpu.ec ∧
      Transfers s (exec (.xwb rq adr) s) .worker s.cpu.pc (s.eff adr + bw)) ∧
    (s.operandReads adr = true →
      Transfers s (exec (.starXSB rq adr) s) .supervisor (s.peek (s.eff adr) + bs) s.cpu.ec ∧
      Transfers s (exec (.starXWB rq adr) s) .worker s.cpu.pc (s.peek (s.eff adr) + bw))

/-! ### Formats I-D, I-E and I-F -/

/-- ARB adds the addend to the index register of the active mode and tests the sum; it branches exactly when bit 0 of the
register is unchanged, with register 5 as it then stands when `rq` (R251; the order for register 5 is D32's). -/
def Obligations.AddToRegisterAndBranch : Prop :=
  ∀ (s : State) (rq : Bool) (xr : RegNo) (addend : BitVec 4) (n res five : Word),
    res = s.active xr + addend.signExtend 16 → five = (if xr = 5 then res else s.active 5) →
    ∃ t, exec (.arb rq xr addend n) s = .next t ∧ t.active xr = res ∧ t.comparisonIs (compareZero res) ∧
      Counts s t
        (if bit res 0 = bit (s.active xr) 0 then n + (if rq then five else 0#16) else s.lc) ∧
      SameDevices s t ∧ Frame s t [regAddress (fileIndex s.mode xr)] maskCB

/-- ADAC sends one message to the DMAC, the ten bits and the list address, and changes nothing of the processor or of memory;
where no controller is installed it has no effect (R252, D33). -/
def Obligations.ActivateChannel : Prop :=
  ∀ (s : State) (aq : BitVec 10) (n : Word),
    ∃ t, exec (.adac aq n) s = .next t ∧
      t.dmac.activations = s.dmac.activations ++ (if s.config.dmacPorts = 0 then [] else [(aq, n)]) ∧
      t.dmac.intStatus = s.dmac.intStatus ∧ t.dmac.status = s.dmac.status ∧ t.dmac.tasks = s.dmac.tasks ∧
      t.cpu = s.cpu ∧ t.mem = s.mem ∧
      t.cru = s.cru ∧ Frame s t [] 0#16

/-! ### Group II -/

/-- CM, CML and CMI write nothing: they go on at the next instruction when less, skip one when greater, two when equal or
within the limits; CML tests the lower limit first (R260 to R263, R267; the amounts are D27's). -/
def Obligations.MemoryCompares : Prop :=
  ∀ (s : State) (op1 op2 : BaseRef) (value : BitVec 13) (x y : Int) (a1 a2 : Word),
    a1 = s.active op1.base + BitVec.ofNat 16 op1.disp.toNat →
    a2 = s.active op2.base + BitVec.ofNat 16 op2.disp.toNat →
    s.sound a1 = true → x = (s.peek a1).toInt → y = (s.peek a2).toInt →
    (s.sound a2 = true →
      Branches s (exec (.cm op1 op2) s) (s.lc + (if x < y then 0#16 else if x > y then 2#16 else 4#16))) ∧
    (s.sound a2 = true → s.sound (a2 + 1#16) = true →
      Branches s (exec (.cml op1 op2) s)
        (s.lc + (if x < y then 0#16 else if x > (s.peek (a2 + 1#16)).toInt then 2#16 else 4#16))) ∧
    Branches s (exec (.cmi op1 value) s)
      (s.lc + (if x < value.toInt then 0#16 else if x > value.toInt then 2#16 else 4#16))

/-- BRRL links the updated counter, or without `BRRL_LINK_UPDATED` the instruction's own address, less the base as it stood,
and branches to the displacement plus that base (R265, D23). -/
def Obligations.BranchRelativeAndLink : Prop :=
  ∀ (s : State) (link : RegNo) (target : BaseRef),
    ∃ t, exec (.brrl link target) s = .next t ∧
      t.active link = (if s.config.brrlLinkUpdated then s.lc else s.lc - 2#16) - s.active target.base ∧
      Counts s t (BitVec.ofNat 16 target.disp.toNat + s.active target.base) ∧ SameDevices s t ∧
      Frame s t [regAddress (fileIndex s.mode link)] 0#16

/-- MOV copies the word of its first operand to its second and tests it; AMI adds the sign-extended 13-bit value to the word
of its operand, with carry, overflow and the comparison bits (R260, R264, R266). -/
def Obligations.MoveAndAddImmediate : Prop :=
  ∀ (s : State) (op1 op2 : BaseRef) (value : BitVec 13) (a a2 x : Word),
    a = s.active op1.base + BitVec.ofNat 16 op1.disp.toNat →
    a2 = s.active op2.base + BitVec.ofNat 16 op2.disp.toNat → s.sound a = true → x = s.peek a →
    (s.storable a2 = true → StoresResult s (exec (.mov op1 op2) s) a2 x) ∧
    (s.storable a = true →
      ∃ t, exec (.ami op1 value) s = .next t ∧ t.peek a = x + value.signExtend 16 ∧
        t.comparisonIs (compareZero (x + value.signExtend 16)) ∧
        bit t.cpu.st bitCO = decide (0x10000 ≤ x.toNat + (value.signExtend 16).toNat) ∧
        bit t.cpu.st bitOI = overflows 16 (x.toInt + value.toInt) ∧ SameCounters s t ∧ SameDevices s t ∧
        Frame s t [a] (maskOI ||| maskCO ||| maskCB))

/-! ### Group III -/

/-- SETF sets one bit of the flag word and keeps the other fifteen; the comparison code it leaves is one of the three, which
one being the word's own under the policy `word` and open under `any` (R281, R290, D19). -/
def Obligations.SetFlag : Prop :=
  ∀ (s : State) (am : Bool) (flag : FlagRef) (v1 : Bool) (a : Word),
    a = s.reg (fileIndex (if am then otherMode s.mode else s.mode) 6) + BitVec.ofNat 16 flag.m.toNat →
    s.sound a = true → s.storable a = true →
    ∃ t c, exec (.setf am flag v1) s = .next t ∧
      (∀ j, j < 16 → bit (t.peek a) j = if j = flag.b.val then v1 else bit (s.peek a) j) ∧ t.comparisonIs c ∧
      (s.config.setfPolicy = .word → c = compareZero (t.peek a)) ∧ SameCounters s t ∧ SameDevices s t ∧
      Frame s t [a] maskCB

/-- XFNE and BFNE test a flag: equal to `v1` they go on; else XFNE puts the counter back at its own address and changes the
mode, BFNE branches relative to the active mode's register 5, whatever `am` is (R282, R283; the last is the inference R280 marks). -/
def Obligations.FlagTests : Prop :=
  ∀ (s : State) (am : Bool) (flag : FlagRef) (v1 : Bool) (n : BitVec 10) (a : Word),
    a = s.reg (fileIndex (if am then otherMode s.mode else s.mode) 6) + BitVec.ofNat 16 flag.m.toNat →
    s.sound a = true →
    (bit (s.peek a) flag.b.val = v1 →
      exec (.xfne am flag v1) s = .next s ∧ exec (.bfne am flag v1 n) s = .next s) ∧
    (bit (s.peek a) flag.b.val ≠ v1 →
      (∃ t, exec (.xfne am flag v1) s = .next t ∧ t.mode = otherMode s.mode ∧ Counts s t (s.lc - 2#16) ∧
        SameDevices s t ∧ Frame s t [] maskMI) ∧
      Branches s (exec (.bfne am flag v1 n) s) (BitVec.ofNat 16 n.toNat + s.active 5))

/-- SETB and LDCR drive output lines that have a module and no others: SETB one line, LDCR `width` consecutive lines from the
low bits of the memory word, low bit first; line addresses wrap at 4096 (R83, R284, R288; D18, U12). -/
def Obligations.CruOutputs : Prop :=
  ∀ (s : State) (am v1 : Bool) (m n : BitVec 10) (width : Nat) (line : CruLine) (a : Word),
    line = BitVec.ofNat 12 (m.toNat + (s.reg (fileIndex (if am then otherMode s.mode else s.mode) 7)).toNat) →
    a = s.reg (fileIndex (if am then otherMode s.mode else s.mode) 4) + BitVec.ofNat 16 n.toNat →
    (∃ t, exec (.setb am m v1) s = .next t ∧
      (∀ l, lineLevel t.cru.outputs l = if l = line ∧ s.hasOutput l = true then v1 else lineLevel s.cru.outputs l) ∧
      t.cru.inputs = s.cru.inputs ∧ t.cru.interruptLine = s.cru.interruptLine ∧ t.dmac = s.dmac ∧ t.cpu = s.cpu ∧
      Frame s t [] 0#16) ∧
    (s.sound a = true → width ≤ 16 →
      ∃ t, exec (.ldcr am m width n) s = .next t ∧
        (∀ l, lineLevel t.cru.outputs l =
          if (l - line).toNat < width ∧ s.hasOutput l = true then bit (s.peek a) (15 - (l - line).toNat)
          else lineLevel s.cru.outputs l) ∧
        t.cru.inputs = s.cru.inputs ∧ t.cru.interruptLine = s.cru.interruptLine ∧ t.dmac = s.dmac ∧ t.cpu = s.cpu ∧
        Frame s t [] 0#16)

/-- XBNE, BBNE and TSBX test the level a module drives on an input line. Equal to `v1`: XBNE and BBNE go on, TSBX outputs its
bit and goes on. Else: XBNE changes the mode with the counter back at its own address, BBNE branches relative to the active
mode's register 5, TSBX changes the mode as XBNE does unless `am`, which then goes on (R285 to R287; D17). -/
def Obligations.InputTests : Prop :=
  ∀ (s : State) (am v1 ob : Bool) (m n : BitVec 10) (line out : CruLine),
    line = BitVec.ofNat 12 (m.toNat + (s.reg (fileIndex (if am then otherMode s.mode else s.mode) 7)).toNat) →
    out = BitVec.ofNat 12 (n.toNat + (s.reg (fileIndex (if am then otherMode s.mode else s.mode) 7)).toNat) →
    s.hasInput line = true →
    (lineLevel s.cru.inputs line = v1 →
      exec (.xbne am m v1) s = .next s ∧ exec (.bbne am m v1 n) s = .next s ∧
      ∃ t, exec (.tsbx am m v1 n ob) s = .next t ∧
        (∀ l, lineLevel t.cru.outputs l = if l = out ∧ s.hasOutput l = true then ob else lineLevel s.cru.outputs l) ∧
        t.cru.inputs = s.cru.inputs ∧ t.cru.interruptLine = s.cru.interruptLine ∧ t.dmac = s.dmac ∧ t.cpu = s.cpu ∧
        Frame s t [] 0#16) ∧
    (lineLevel s.cru.inputs line ≠ v1 →
      (∃ t, exec (.xbne am m v1) s = .next t ∧ t.mode = otherMode s.mode ∧ Counts s t (s.lc - 2#16) ∧
        SameDevices s t ∧ Frame s t [] maskMI) ∧
      Branches s (exec (.bbne am m v1 n) s) (BitVec.ofNat 16 n.toNat + s.active 5) ∧
      (am = true → exec (.tsbx am m v1 n ob) s = .next s) ∧
      (am = false →
        ∃ t, exec (.tsbx am m v1 n ob) s = .next t ∧ t.mode = otherMode s.mode ∧ Counts s t (s.lc - 2#16) ∧
          SameDevices s t ∧ Frame s t [] maskMI))

/-- STCR reads `width` consecutive input lines, the first into bit 15, copies the last one read to every bit at its left, and
stores and tests the word (R289; line addresses wrap, D18). -/
def Obligations.StoreCommunicationRegister : Prop :=
  ∀ (s : State) (am : Bool) (m n : BitVec 10) (width : Nat) (line : CruLine) (a v : Word),
    line = BitVec.ofNat 12 (m.toNat + (s.reg (fileIndex (if am then otherMode s.mode else s.mode) 7)).toNat) →
    a = s.reg (fileIndex (if am then otherMode s.mode else s.mode) 4) + BitVec.ofNat 16 n.toNat →
    s.storable a = true → 1 ≤ width → width ≤ 16 →
    (∀ k, k < width → s.hasInput (line + BitVec.ofNat 12 k) = true) →
    (∀ j, j < 16 →
      bit v (15 - j) = lineLevel s.cru.inputs (line + BitVec.ofNat 12 (if j < width then j else width - 1))) →
    StoresResult s (exec (.stcr am m width n) s) a v

/-! ### Interrupts -/

/-- Raising a cause sets its bit of `ST` and no other, whatever `II` is; the request is latched when `II` = 0, and when `II` = 1
it waits under the policy `hold` and is lost under `drop` (R376, R378; the latch and
its policy are D7's). -/
def Obligations.RaisingACause : Prop :=
  ∀ (s : State) (c : Cause),
    (∀ j, j < 16 → bit (s.raiseInternal c).cpu.st j =
      if j = (match c with | .mp => 2 | .pf => 3 | .uc => 4 | .mv => 5) then true else bit s.cpu.st j) ∧
    (bit s.cpu.st 7 = false → (s.raiseInternal c).cpu.internalPending = true) ∧
    (bit s.cpu.st 7 = true → s.config.maskedPolicy = .hold → (s.raiseInternal c).cpu.internalPending = true) ∧
    (bit s.cpu.st 7 = true → s.config.maskedPolicy = .drop →
      (s.raiseInternal c).cpu.internalPending = s.cpu.internalPending)

/-- The sample of R377: the internal request first, then the CRU line, then the DMAC line, each only where its mask bit is 0;
then the instruction at the location counter. The sampling is D6's, the CRU line as a level D35's. -/
def Obligations.InterruptPriority : Prop :=
  ∀ s : State, s.schedule = [] → s.powered = true → s.running = true → s.clockRuns = true →
    step s =
      if s.cpu.internalPending = true ∧ bit s.cpu.st 7 = false then s.takeInterrupt exec .internal
      else if s.cru.interruptLine = true ∧ bit s.cpu.st 9 = false then s.takeInterrupt exec .cru
      else if s.dmac.intStatus ≠ 0#8 ∧ bit s.cpu.st 8 = false then s.takeInterrupt exec .dmac
      else s.runNext exec

/-- The entry of each level, at its location of R371: the DMAC answers its interrupt, the instruction of the location runs with
the counter not advanced, an undefined code there raising UC instead (R380), then the level's masks are set and nothing else
is changed; the hardware itself saves nothing (R381, D5, D28). Whether the internal request leaves its latch after the
instruction, as R381's step 3 has it, or before, as R380's last sentence needs, is the parameter of log 20. -/
def Obligations.InterruptEntry : Prop :=
  ∀ s : State,
    s.recognise .internal = (if s.config.requestClearing = .first then s.setPending false else s) ∧
    s.recognise .cru = s ∧
    ∀ (v : Level) (l masks w1 w2 : Word) (x : State),
      l = (match v with | .internal => 0x90#16 | .cru => 0x94#16 | .dmac => 0x92#16) →
      masks = (match v with | .internal => 0x01C0#16 | .cru => 0x00C0#16 | .dmac => 0x0080#16) →
      (s.recognise v).sound l = true → (s.recognise v).sound (l + 1#16) = true →
      w1 = (s.recognise v).peek l → w2 = (s.recognise v).peek (l + 1#16) →
      x = ((s.recognise v).setIa w1).setIb w2 →
      ∃ u, (match decodeFor s.config (pairOf w1 w2) with
          | some i => exec i x = .next u
          | none => u = x.raiseInternal .uc) ∧
        s.takeInterrupt exec v = .next ((u.setSt (u.cpu.st ||| masks)).setPending
          (if v = .internal ∧ s.config.requestClearing = .last then false else u.cpu.internalPending))

/-- The DMAC as an agent. It answers its interrupt with its word at `0x96`, the two words of every controller that interrupted,
and all bits of its interrupt status cleared, before the instruction at `0x92` (R386); the word at `0x96` is open (N12; log
24). It writes memory only for a task in progress, which an installed controller begins by taking up an activation and ends
with its report, before the status words are stored or the interrupt is raised: so all of a task's transfers precede its
stored status (R76). The turns are the model's (logs 4, 23, 24, 25), as are the controllers' numbers (log 39). -/
def Obligations.DmacStoresStatus : Prop :=
  (∀ s : State, 0xA8 ≤ s.config.memWords →
    (s.recognise .dmac).dmac.intStatus = 0#8 ∧
    (s.recognise .dmac).peek 0x96#16 = Config.dmacStatusWord s.dmac.intStatus s.freeCount ∧
    (∀ c : Fin 8, s.dmac.intStatus.getLsbD c.val = true →
      (s.recognise .dmac).peek (BitVec.ofNat 16 (0x98 + 2 * c.val)) = s.dmac.status[c].first ∧
      (s.recognise .dmac).peek (BitVec.ofNat 16 (0x99 + 2 * c.val)) = s.dmac.status[c].second) ∧
    (∀ a, (∀ c : Fin 8, s.dmac.intStatus.getLsbD c.val = true →
        a ≠ BitVec.ofNat 16 (0x98 + 2 * c.val) ∧ a ≠ BitVec.ofNat 16 (0x99 + 2 * c.val)) → a ≠ 0x96#16 →
      (s.recognise .dmac).peek a = s.peek a) ∧
    (s.recognise .dmac).cpu = { s.cpu with regs := (s.recognise .dmac).cpu.regs } ∧
    (∀ i, (s.recognise .dmac).reg i = s.reg i)) ∧
  ∀ (s u : State) (rest : List Turn), u = s.setSchedule rest → s.powered = true →
    (∀ c : Option (Fin 8), s.schedule = .dmacTake c :: rest →
      (s.dmac.activations = [] → step s = .next u) ∧
      ∀ q l, s.dmac.activations = q :: l →
        step s = .next (u.setDmac
          { s.dmac with
            activations := l
            tasks := s.dmac.tasks ++
              (match c with
              | none => []
              | some k =>
                if k.val < s.config.dmacPorts then [{ controller := k, request := q.1, list := q.2 }] else []) })) ∧
    (∀ (n : Nat) (a v : Word), s.schedule = .dmacWrite n a v :: rest →
      (s.dmac.tasks.length ≤ n → step s = .next u) ∧
      (n < s.dmac.tasks.length →
        (s.blocked a = true ∨ (0x80 ≤ a.toNat ∧ a.toNat < 0x90) → step s = .refused (.dmacTarget a)) ∧
        (s.storable a = true → ¬ (0x80 ≤ a.toNat ∧ a.toNat < 0x90) →
          ∃ t, step s = .next t ∧ t.peek a = v ∧ t.cpu = s.cpu ∧ SameDevices s t ∧ Frame u t [a] 0#16))) ∧
    ∀ (r : StatusReport) (a : Word), s.schedule = .dmacReport r :: rest →
      a = BitVec.ofNat 16 (0x98 + 2 * r.controller.val) →
      (s.config.dmacPorts ≤ r.controller.val → step s = .next u) ∧
      (r.controller.val < s.config.dmacPorts →
        ∃ t, step s = .next t ∧
          (∀ n, r.completes = some n → (s.dmac.tasks[n]?).map DmacTask.controller = some r.controller →
            t.dmac.tasks = s.dmac.tasks.eraseIdx n) ∧
          (r.completes = none → t.dmac.tasks = s.dmac.tasks) ∧
          t.dmac.intStatus =
            s.dmac.intStatus ||| (if r.interrupts then BitVec.ofNat 8 (2 ^ r.controller.val) else 0#8) ∧
          (∀ k : Fin 8, t.dmac.status[k] =
            if r.interrupts = true ∧ k = r.controller then r.words else s.dmac.status[k]) ∧
          t.dmac.activations = s.dmac.activations ∧ t.cru = s.cru ∧ t.cpu = s.cpu ∧
          (r.stores = true → 0xA8 ≤ s.config.memWords →
            t.peek a = r.words.first ∧ t.peek (a + 1#16) = r.words.second) ∧
          Frame u t (if r.stores then [a, a + 1#16] else []) 0#16)

/-- The linkage of R382: with `SXBS BLK` in the internal location, taking the interrupt stores `PC` and `ST` in the block,
continues in Supervisor Mode at the block's third word with all three levels masked, and leaves `EC`, the registers and all
other words alone; `LDS BLK` in the handler then restores the state before the interrupt (D5, D7, D8). -/
def Obligations.InterruptLinkageAndReturn : Prop :=
  ∀ (s : State) (blk : Word), s.schedule = [] → s.powered = true → s.running = true → s.clockRuns = true →
    s.cpu.internalPending = true → bit s.cpu.st bitII = false →
    s.sound 0x90#16 = true → s.sound 0x91#16 = true → s.peek 0x90#16 = 0x7880#16 → s.peek 0x91#16 = blk →
    s.storable blk = true → s.storable (blk + 1#16) = true → s.sound (blk + 2#16) = true →
    ∃ t, step s = .next t ∧ t.peek blk = s.cpu.pc ∧ t.peek (blk + 1#16) = s.cpu.st ∧
      t.cpu.pc = s.peek (blk + 2#16) ∧ t.cpu.ec = s.cpu.ec ∧ t.mode = .supervisor ∧
      t.cpu.st &&& 0x7FFF#16 = (s.cpu.st ||| 0x01C0#16) &&& 0x7FFF#16 ∧ t.cpu.internalPending = false ∧
      (∀ a, a ≠ blk → a ≠ blk + 1#16 → t.peek a = s.peek a) ∧
      ∃ u, exec (.lds false (.direct blk)) t = .next u ∧ u.cpu.pc = s.cpu.pc ∧ u.cpu.ec = s.cpu.ec ∧
        u.cpu.st = s.cpu.st ∧ u.cpu.internalPending = false ∧ ∀ a, u.peek a = t.peek a

/-! ### The panel, reset and power -/

/-- In HALT nothing is executed and no request is taken (R49, R377). START (R412): with MODE at RUN the machine runs; at HALT
with SIE on it executes one step of R377 and stays in HALT; with SIE off nothing happens. MODE moved to HALT halts. A locked
panel disables every control but the DATA switches (R410); that the LOCK/UNLOCK switch itself turns is the model's choice (log
18). The single step is D36's. -/
def Obligations.RunControl : Prop :=
  ∀ (s : State) (rest : List Turn),
    (s.powered = true →
      (s.schedule = [] → s.running = false → step s = .next s) ∧
      (s.panel.locked = false → s.schedule = .panel .start :: rest → s.running = false →
        (s.panel.modeRun = true → step s = .next ((s.setSchedule rest).setRunning true)) ∧
        (s.panel.modeRun = false → s.panel.sie = true → s.clockRuns = true →
          step s = (s.setSchedule rest).cpuStep exec ∧ ∀ t, step s = .next t → t.running = false) ∧
        (s.panel.modeRun = false → s.panel.sie = false → step s = .next (s.setSchedule rest))) ∧
      (s.panel.locked = false → s.schedule = .panel (.setMode false) :: rest →
        ∃ t, step s = .next t ∧ t.running = false ∧ t.cpu = s.cpu)) ∧
    (∀ act : PanelAction, s.panel.locked = true → (∀ v, act ≠ .setData v) → (∀ on, act ≠ .setLocked on) →
      s.schedule = .panel act :: rest → step s = .next (s.setSchedule rest)) ∧
    (∀ v, s.schedule = .panel (.setData v) :: rest →
      step s = .next ((s.setSchedule rest).setPanel { s.panel with data := v })) ∧
    (∀ on, s.schedule = .panel (.setLocked on) :: rest →
      step s = .next ((s.setSchedule rest).setPanel { s.panel with locked := on }))

/-- The RESET switch in HALT: `PC`, `ST`, `MA` and the display cleared, the POWER LOSS latch off, no internal request, still in
HALT; `IA`, `IB`, every memory word and every device unchanged (R420, R422, R423). What `EC` and the sixteen registers hold
is left free (D22). -/
def Obligations.ResetSwitch : Prop :=
  ∀ (s : State) (rest : List Turn), s.schedule = .panel .reset :: rest → s.powered = true → s.panel.locked = false →
    s.running = false →
    ∃ t, step s = .next t ∧ t.cpu.pc = 0#16 ∧ t.cpu.st = 0#16 ∧ t.panel.ma = 0#16 ∧ t.panel.display = 0#16 ∧
      t.panel.powerLoss = false ∧ t.cpu.internalPending = false ∧ t.running = false ∧ t.cpu.ia = s.cpu.ia ∧
      t.cpu.ib = s.cpu.ib ∧ t.mem = s.mem ∧ t.checkFails = s.checkFails ∧ SameDevices s t ∧
      t.panel = { s.panel with ma := 0#16, display := 0#16, powerLoss := false }

/-- The machine right after reset, in the registers R420 and R422 name: `PC`, `ST`, `MA` and the display 0, no request, the latch
off, HALT; so Supervisor Mode, pre-indexing, every level enabled (R421). That no request waits is D22's. -/
def Obligations.ResetState : Prop :=
  State.reset.cpu.pc = 0#16 ∧ State.reset.cpu.st = 0#16 ∧ State.reset.panel.ma = 0#16 ∧
  State.reset.panel.display = 0#16 ∧ State.reset.panel.powerLoss = false ∧ State.reset.cpu.internalPending = false ∧
  State.reset.running = false ∧ State.reset.mode = .supervisor ∧ State.reset.preindex = true

/-- ENTER and DISPLAY in HALT (R411): a register or the memory word at `MA` takes the DATA switches, or is shown; MDI then
increments `MA`, wrapping at `0xFFFF` (D1); `ST` is entered whole and requests nothing (D7). A panel write that protection
suppresses stores nothing, and may leave `MV` at any value (R72, U6; log 13). The DATA lights show the display register, but
in the RUN or SIE mode the active location counter (R42, R410). That the SIE mode is the SIE switch at ON, and that ENTER and
DISPLAY act in HALT with it on too, is the model's choice (log 40). -/
def Obligations.EnterAndDisplay : Prop :=
  (∀ s : State, s.dataLights = if s.running = true ∨ s.panel.sie = true then s.lc else s.panel.display) ∧
  ∀ (s : State) (rest : List Turn) (u : State), u = s.setSchedule rest → s.powered = true → s.panel.locked = false →
    s.running = false →
    (∀ r : PanelRegister, s.schedule = .panel (.enter r) :: rest → ∃ t, step s = .next t ∧
      t.panelRegister r = s.panel.data ∧ t.panel.display = s.panel.data ∧
      (∀ r', r' ≠ r → t.panelRegister r' = s.panelRegister r') ∧ t.mem = s.mem ∧ t.cpu.regs = s.cpu.regs ∧
      t.cpu.internalPending = s.cpu.internalPending) ∧
    (∀ r : PanelRegister, s.schedule = .panel (.display r) :: rest →
      step s = .next (u.setPanel { s.panel with display := s.panelRegister r })) ∧
    (∀ (act : PanelAction) (ma : Word), s.schedule = .panel act :: rest →
      act = .enterMd ∧ ma = s.panel.ma ∨ act = .enterMdi ∧ ma = s.panel.ma + 1#16 →
      ∃ t, step s = .next t ∧ t.panel = { s.panel with display := s.panel.data, ma := ma } ∧
        SameCounters s t ∧ SameDevices s t ∧ (∀ a, a ≠ s.panel.ma → t.peek a = s.peek a) ∧
        (s.storable s.panel.ma = true → t.peek s.panel.ma = s.panel.data ∧ t.cpu.st = s.cpu.st ∧
          t.cpu.internalPending = s.cpu.internalPending) ∧
        (s.blocked s.panel.ma = true → t.mem = s.mem ∧ t.cpu.regs = s.cpu.regs ∧ t.checkFails = s.checkFails ∧
          t.cpu.st ||| 0x0400#16 = s.cpu.st ||| 0x0400#16 ∧
          (bit t.cpu.st bitMV = false → t.cpu.internalPending = s.cpu.internalPending))) ∧
    (s.sound s.panel.ma = true →
      (s.schedule = .panel .displayMd :: rest →
        step s = .next (u.setPanel { s.panel with display := s.peek s.panel.ma })) ∧
      (s.schedule = .panel .displayMdi :: rest →
        step s = .next (u.setPanel { s.panel with display := s.peek s.panel.ma, ma := s.panel.ma + 1#16 }))) ∧
    (s.schedule = .panel .displayIa :: rest → step s = .next (u.setPanel { s.panel with display := s.cpu.ia })) ∧
    (s.schedule = .panel .displayIb :: rest → step s = .next (u.setPanel { s.panel with display := s.cpu.ib }))

/-- The power system (R373, R424): a sensed loss raises PF; without power the processor has stopped; restored power leaves
`ST` = `0x00C0`, a request with no cause bit, and the run state the MODE switch names (D34); memory is kept where a battery
kept it (R425) or the environment retained it. The model's choices (log 22): the loss, the stop and the restoration are turns
of their own, and the POWER LOSS latch goes on wherever no battery held memory, retained or not, and is else unchanged. -/
def Obligations.PowerEvents : Prop :=
  ∀ (s : State) (rest : List Turn),
    (s.schedule = .powerLossSensed :: rest → s.powered = true →
      step s = .next ((s.setSchedule rest).raiseInternal .pf)) ∧
    (s.schedule = .powerOff :: rest →
      ∃ t, step s = .next t ∧ t.powered = false ∧ t.running = false ∧
        (rest = [] → step t = .fault .powerOff)) ∧
    (∀ p : PowerUp, s.schedule = .powerRestored p :: rest → s.powered = false →
      ∃ t, step s = .next t ∧ t.cpu.st = 0x00C0#16 ∧ t.cpu.internalPending = true ∧ t.powered = true ∧
        t.running = s.panel.modeRun ∧
        (s.config.hasBattery = true → p.batteryOn = true →
          t.mem = s.mem ∧ t.checkFails = s.checkFails ∧ t.panel.powerLoss = s.panel.powerLoss) ∧
        (p.retained = true → t.mem = s.mem ∧ t.checkFails = s.checkFails) ∧
        ((s.config.hasBattery = false ∨ p.batteryOn = false) → t.panel.powerLoss = true))
end

