-- ==== Sys2Proof/Laws/State.lean ====
section
/-! SUPPORT. One lemma for each field after each update of Machine/Ops.lean, so that no later proof unfolds a record
update. -/

namespace Sys2Proof.Machine

variable (s : State)

@[simp] theorem State.setPc_regs (v : Word) : (s.setPc v).cpu.regs = s.cpu.regs := rfl
@[simp] theorem State.setPc_pc (v : Word) : (s.setPc v).cpu.pc = v := rfl
@[simp] theorem State.setPc_ec (v : Word) : (s.setPc v).cpu.ec = s.cpu.ec := rfl
@[simp] theorem State.setPc_st (v : Word) : (s.setPc v).cpu.st = s.cpu.st := rfl
@[simp] theorem State.setPc_ia (v : Word) : (s.setPc v).cpu.ia = s.cpu.ia := rfl
@[simp] theorem State.setPc_ib (v : Word) : (s.setPc v).cpu.ib = s.cpu.ib := rfl
@[simp] theorem State.setPc_internalPending (v : Word) : (s.setPc v).cpu.internalPending = s.cpu.internalPending := rfl
@[simp] theorem State.setPc_config (v : Word) : (s.setPc v).config = s.config := rfl
@[simp] theorem State.setPc_mem (v : Word) : (s.setPc v).mem = s.mem := rfl
@[simp] theorem State.setPc_checkFails (v : Word) : (s.setPc v).checkFails = s.checkFails := rfl
@[simp] theorem State.setPc_cru (v : Word) : (s.setPc v).cru = s.cru := rfl
@[simp] theorem State.setPc_dmac (v : Word) : (s.setPc v).dmac = s.dmac := rfl
@[simp] theorem State.setPc_panel (v : Word) : (s.setPc v).panel = s.panel := rfl
@[simp] theorem State.setPc_running (v : Word) : (s.setPc v).running = s.running := rfl
@[simp] theorem State.setPc_powered (v : Word) : (s.setPc v).powered = s.powered := rfl
@[simp] theorem State.setPc_schedule (v : Word) : (s.setPc v).schedule = s.schedule := rfl
@[simp] theorem State.setPc_freeCount (v : Word) : (s.setPc v).freeCount = s.freeCount := rfl

@[simp] theorem State.setEc_regs (v : Word) : (s.setEc v).cpu.regs = s.cpu.regs := rfl
@[simp] theorem State.setEc_pc (v : Word) : (s.setEc v).cpu.pc = s.cpu.pc := rfl
@[simp] theorem State.setEc_ec (v : Word) : (s.setEc v).cpu.ec = v := rfl
@[simp] theorem State.setEc_st (v : Word) : (s.setEc v).cpu.st = s.cpu.st := rfl
@[simp] theorem State.setEc_ia (v : Word) : (s.setEc v).cpu.ia = s.cpu.ia := rfl
@[simp] theorem State.setEc_ib (v : Word) : (s.setEc v).cpu.ib = s.cpu.ib := rfl
@[simp] theorem State.setEc_internalPending (v : Word) : (s.setEc v).cpu.internalPending = s.cpu.internalPending := rfl
@[simp] theorem State.setEc_config (v : Word) : (s.setEc v).config = s.config := rfl
@[simp] theorem State.setEc_mem (v : Word) : (s.setEc v).mem = s.mem := rfl
@[simp] theorem State.setEc_checkFails (v : Word) : (s.setEc v).checkFails = s.checkFails := rfl
@[simp] theorem State.setEc_cru (v : Word) : (s.setEc v).cru = s.cru := rfl
@[simp] theorem State.setEc_dmac (v : Word) : (s.setEc v).dmac = s.dmac := rfl
@[simp] theorem State.setEc_panel (v : Word) : (s.setEc v).panel = s.panel := rfl
@[simp] theorem State.setEc_running (v : Word) : (s.setEc v).running = s.running := rfl
@[simp] theorem State.setEc_powered (v : Word) : (s.setEc v).powered = s.powered := rfl
@[simp] theorem State.setEc_schedule (v : Word) : (s.setEc v).schedule = s.schedule := rfl
@[simp] theorem State.setEc_freeCount (v : Word) : (s.setEc v).freeCount = s.freeCount := rfl

@[simp] theorem State.setSt_regs (v : Word) : (s.setSt v).cpu.regs = s.cpu.regs := rfl
@[simp] theorem State.setSt_pc (v : Word) : (s.setSt v).cpu.pc = s.cpu.pc := rfl
@[simp] theorem State.setSt_ec (v : Word) : (s.setSt v).cpu.ec = s.cpu.ec := rfl
@[simp] theorem State.setSt_st (v : Word) : (s.setSt v).cpu.st = v := rfl
@[simp] theorem State.setSt_ia (v : Word) : (s.setSt v).cpu.ia = s.cpu.ia := rfl
@[simp] theorem State.setSt_ib (v : Word) : (s.setSt v).cpu.ib = s.cpu.ib := rfl
@[simp] theorem State.setSt_internalPending (v : Word) : (s.setSt v).cpu.internalPending = s.cpu.internalPending := rfl
@[simp] theorem State.setSt_config (v : Word) : (s.setSt v).config = s.config := rfl
@[simp] theorem State.setSt_mem (v : Word) : (s.setSt v).mem = s.mem := rfl
@[simp] theorem State.setSt_checkFails (v : Word) : (s.setSt v).checkFails = s.checkFails := rfl
@[simp] theorem State.setSt_cru (v : Word) : (s.setSt v).cru = s.cru := rfl
@[simp] theorem State.setSt_dmac (v : Word) : (s.setSt v).dmac = s.dmac := rfl
@[simp] theorem State.setSt_panel (v : Word) : (s.setSt v).panel = s.panel := rfl
@[simp] theorem State.setSt_running (v : Word) : (s.setSt v).running = s.running := rfl
@[simp] theorem State.setSt_powered (v : Word) : (s.setSt v).powered = s.powered := rfl
@[simp] theorem State.setSt_schedule (v : Word) : (s.setSt v).schedule = s.schedule := rfl
@[simp] theorem State.setSt_freeCount (v : Word) : (s.setSt v).freeCount = s.freeCount := rfl

@[simp] theorem State.setIa_regs (v : Word) : (s.setIa v).cpu.regs = s.cpu.regs := rfl
@[simp] theorem State.setIa_pc (v : Word) : (s.setIa v).cpu.pc = s.cpu.pc := rfl
@[simp] theorem State.setIa_ec (v : Word) : (s.setIa v).cpu.ec = s.cpu.ec := rfl
@[simp] theorem State.setIa_st (v : Word) : (s.setIa v).cpu.st = s.cpu.st := rfl
@[simp] theorem State.setIa_ia (v : Word) : (s.setIa v).cpu.ia = v := rfl
@[simp] theorem State.setIa_ib (v : Word) : (s.setIa v).cpu.ib = s.cpu.ib := rfl
@[simp] theorem State.setIa_internalPending (v : Word) : (s.setIa v).cpu.internalPending = s.cpu.internalPending := rfl
@[simp] theorem State.setIa_config (v : Word) : (s.setIa v).config = s.config := rfl
@[simp] theorem State.setIa_mem (v : Word) : (s.setIa v).mem = s.mem := rfl
@[simp] theorem State.setIa_checkFails (v : Word) : (s.setIa v).checkFails = s.checkFails := rfl
@[simp] theorem State.setIa_cru (v : Word) : (s.setIa v).cru = s.cru := rfl
@[simp] theorem State.setIa_dmac (v : Word) : (s.setIa v).dmac = s.dmac := rfl
@[simp] theorem State.setIa_panel (v : Word) : (s.setIa v).panel = s.panel := rfl
@[simp] theorem State.setIa_running (v : Word) : (s.setIa v).running = s.running := rfl
@[simp] theorem State.setIa_powered (v : Word) : (s.setIa v).powered = s.powered := rfl
@[simp] theorem State.setIa_schedule (v : Word) : (s.setIa v).schedule = s.schedule := rfl
@[simp] theorem State.setIa_freeCount (v : Word) : (s.setIa v).freeCount = s.freeCount := rfl

@[simp] theorem State.setIb_regs (v : Word) : (s.setIb v).cpu.regs = s.cpu.regs := rfl
@[simp] theorem State.setIb_pc (v : Word) : (s.setIb v).cpu.pc = s.cpu.pc := rfl
@[simp] theorem State.setIb_ec (v : Word) : (s.setIb v).cpu.ec = s.cpu.ec := rfl
@[simp] theorem State.setIb_st (v : Word) : (s.setIb v).cpu.st = s.cpu.st := rfl
@[simp] theorem State.setIb_ia (v : Word) : (s.setIb v).cpu.ia = s.cpu.ia := rfl
@[simp] theorem State.setIb_ib (v : Word) : (s.setIb v).cpu.ib = v := rfl
@[simp] theorem State.setIb_internalPending (v : Word) : (s.setIb v).cpu.internalPending = s.cpu.internalPending := rfl
@[simp] theorem State.setIb_config (v : Word) : (s.setIb v).config = s.config := rfl
@[simp] theorem State.setIb_mem (v : Word) : (s.setIb v).mem = s.mem := rfl
@[simp] theorem State.setIb_checkFails (v : Word) : (s.setIb v).checkFails = s.checkFails := rfl
@[simp] theorem State.setIb_cru (v : Word) : (s.setIb v).cru = s.cru := rfl
@[simp] theorem State.setIb_dmac (v : Word) : (s.setIb v).dmac = s.dmac := rfl
@[simp] theorem State.setIb_panel (v : Word) : (s.setIb v).panel = s.panel := rfl
@[simp] theorem State.setIb_running (v : Word) : (s.setIb v).running = s.running := rfl
@[simp] theorem State.setIb_powered (v : Word) : (s.setIb v).powered = s.powered := rfl
@[simp] theorem State.setIb_schedule (v : Word) : (s.setIb v).schedule = s.schedule := rfl
@[simp] theorem State.setIb_freeCount (v : Word) : (s.setIb v).freeCount = s.freeCount := rfl

@[simp] theorem State.setPending_regs (b : Bool) : (s.setPending b).cpu.regs = s.cpu.regs := rfl
@[simp] theorem State.setPending_pc (b : Bool) : (s.setPending b).cpu.pc = s.cpu.pc := rfl
@[simp] theorem State.setPending_ec (b : Bool) : (s.setPending b).cpu.ec = s.cpu.ec := rfl
@[simp] theorem State.setPending_st (b : Bool) : (s.setPending b).cpu.st = s.cpu.st := rfl
@[simp] theorem State.setPending_ia (b : Bool) : (s.setPending b).cpu.ia = s.cpu.ia := rfl
@[simp] theorem State.setPending_ib (b : Bool) : (s.setPending b).cpu.ib = s.cpu.ib := rfl
@[simp] theorem State.setPending_internalPending (b : Bool) : (s.setPending b).cpu.internalPending = b := rfl
@[simp] theorem State.setPending_config (b : Bool) : (s.setPending b).config = s.config := rfl
@[simp] theorem State.setPending_mem (b : Bool) : (s.setPending b).mem = s.mem := rfl
@[simp] theorem State.setPending_checkFails (b : Bool) : (s.setPending b).checkFails = s.checkFails := rfl
@[simp] theorem State.setPending_cru (b : Bool) : (s.setPending b).cru = s.cru := rfl
@[simp] theorem State.setPending_dmac (b : Bool) : (s.setPending b).dmac = s.dmac := rfl
@[simp] theorem State.setPending_panel (b : Bool) : (s.setPending b).panel = s.panel := rfl
@[simp] theorem State.setPending_running (b : Bool) : (s.setPending b).running = s.running := rfl
@[simp] theorem State.setPending_powered (b : Bool) : (s.setPending b).powered = s.powered := rfl
@[simp] theorem State.setPending_schedule (b : Bool) : (s.setPending b).schedule = s.schedule := rfl
@[simp] theorem State.setPending_freeCount (b : Bool) : (s.setPending b).freeCount = s.freeCount := rfl

@[simp] theorem State.setReg_regs (i : FileIndex) (v : Word) : (s.setReg i v).cpu.regs = s.cpu.regs.set i.val v i.isLt := rfl
@[simp] theorem State.setReg_pc (i : FileIndex) (v : Word) : (s.setReg i v).cpu.pc = s.cpu.pc := rfl
@[simp] theorem State.setReg_ec (i : FileIndex) (v : Word) : (s.setReg i v).cpu.ec = s.cpu.ec := rfl
@[simp] theorem State.setReg_st (i : FileIndex) (v : Word) : (s.setReg i v).cpu.st = s.cpu.st := rfl
@[simp] theorem State.setReg_ia (i : FileIndex) (v : Word) : (s.setReg i v).cpu.ia = s.cpu.ia := rfl
@[simp] theorem State.setReg_ib (i : FileIndex) (v : Word) : (s.setReg i v).cpu.ib = s.cpu.ib := rfl
@[simp] theorem State.setReg_internalPending (i : FileIndex) (v : Word) : (s.setReg i v).cpu.internalPending = s.cpu.internalPending := rfl
@[simp] theorem State.setReg_config (i : FileIndex) (v : Word) : (s.setReg i v).config = s.config := rfl
@[simp] theorem State.setReg_mem (i : FileIndex) (v : Word) : (s.setReg i v).mem = s.mem := rfl
@[simp] theorem State.setReg_checkFails (i : FileIndex) (v : Word) : (s.setReg i v).checkFails = s.checkFails := rfl
@[simp] theorem State.setReg_cru (i : FileIndex) (v : Word) : (s.setReg i v).cru = s.cru := rfl
@[simp] theorem State.setReg_dmac (i : FileIndex) (v : Word) : (s.setReg i v).dmac = s.dmac := rfl
@[simp] theorem State.setReg_panel (i : FileIndex) (v : Word) : (s.setReg i v).panel = s.panel := rfl
@[simp] theorem State.setReg_running (i : FileIndex) (v : Word) : (s.setReg i v).running = s.running := rfl
@[simp] theorem State.setReg_powered (i : FileIndex) (v : Word) : (s.setReg i v).powered = s.powered := rfl
@[simp] theorem State.setReg_schedule (i : FileIndex) (v : Word) : (s.setReg i v).schedule = s.schedule := rfl
@[simp] theorem State.setReg_freeCount (i : FileIndex) (v : Word) : (s.setReg i v).freeCount = s.freeCount := rfl

@[simp] theorem State.setMem_cpu (m : Memory) : (s.setMem m).cpu = s.cpu := rfl
@[simp] theorem State.setMem_config (m : Memory) : (s.setMem m).config = s.config := rfl
@[simp] theorem State.setMem_mem (m : Memory) : (s.setMem m).mem = m := rfl
@[simp] theorem State.setMem_checkFails (m : Memory) : (s.setMem m).checkFails = s.checkFails := rfl
@[simp] theorem State.setMem_cru (m : Memory) : (s.setMem m).cru = s.cru := rfl
@[simp] theorem State.setMem_dmac (m : Memory) : (s.setMem m).dmac = s.dmac := rfl
@[simp] theorem State.setMem_panel (m : Memory) : (s.setMem m).panel = s.panel := rfl
@[simp] theorem State.setMem_running (m : Memory) : (s.setMem m).running = s.running := rfl
@[simp] theorem State.setMem_powered (m : Memory) : (s.setMem m).powered = s.powered := rfl
@[simp] theorem State.setMem_schedule (m : Memory) : (s.setMem m).schedule = s.schedule := rfl
@[simp] theorem State.setMem_freeCount (m : Memory) : (s.setMem m).freeCount = s.freeCount := rfl

@[simp] theorem State.setCheckFails_cpu (l : List Nat) : (s.setCheckFails l).cpu = s.cpu := rfl
@[simp] theorem State.setCheckFails_config (l : List Nat) : (s.setCheckFails l).config = s.config := rfl
@[simp] theorem State.setCheckFails_mem (l : List Nat) : (s.setCheckFails l).mem = s.mem := rfl
@[simp] theorem State.setCheckFails_checkFails (l : List Nat) : (s.setCheckFails l).checkFails = l := rfl
@[simp] theorem State.setCheckFails_cru (l : List Nat) : (s.setCheckFails l).cru = s.cru := rfl
@[simp] theorem State.setCheckFails_dmac (l : List Nat) : (s.setCheckFails l).dmac = s.dmac := rfl
@[simp] theorem State.setCheckFails_panel (l : List Nat) : (s.setCheckFails l).panel = s.panel := rfl
@[simp] theorem State.setCheckFails_running (l : List Nat) : (s.setCheckFails l).running = s.running := rfl
@[simp] theorem State.setCheckFails_powered (l : List Nat) : (s.setCheckFails l).powered = s.powered := rfl
@[simp] theorem State.setCheckFails_schedule (l : List Nat) : (s.setCheckFails l).schedule = s.schedule := rfl
@[simp] theorem State.setCheckFails_freeCount (l : List Nat) : (s.setCheckFails l).freeCount = s.freeCount := rfl

@[simp] theorem State.setCru_cpu (c : Cru) : (s.setCru c).cpu = s.cpu := rfl
@[simp] theorem State.setCru_config (c : Cru) : (s.setCru c).config = s.config := rfl
@[simp] theorem State.setCru_mem (c : Cru) : (s.setCru c).mem = s.mem := rfl
@[simp] theorem State.setCru_checkFails (c : Cru) : (s.setCru c).checkFails = s.checkFails := rfl
@[simp] theorem State.setCru_cru (c : Cru) : (s.setCru c).cru = c := rfl
@[simp] theorem State.setCru_dmac (c : Cru) : (s.setCru c).dmac = s.dmac := rfl
@[simp] theorem State.setCru_panel (c : Cru) : (s.setCru c).panel = s.panel := rfl
@[simp] theorem State.setCru_running (c : Cru) : (s.setCru c).running = s.running := rfl
@[simp] theorem State.setCru_powered (c : Cru) : (s.setCru c).powered = s.powered := rfl
@[simp] theorem State.setCru_schedule (c : Cru) : (s.setCru c).schedule = s.schedule := rfl
@[simp] theorem State.setCru_freeCount (c : Cru) : (s.setCru c).freeCount = s.freeCount := rfl

@[simp] theorem State.setDmac_cpu (d : Dmac) : (s.setDmac d).cpu = s.cpu := rfl
@[simp] theorem State.setDmac_config (d : Dmac) : (s.setDmac d).config = s.config := rfl
@[simp] theorem State.setDmac_mem (d : Dmac) : (s.setDmac d).mem = s.mem := rfl
@[simp] theorem State.setDmac_checkFails (d : Dmac) : (s.setDmac d).checkFails = s.checkFails := rfl
@[simp] theorem State.setDmac_cru (d : Dmac) : (s.setDmac d).cru = s.cru := rfl
@[simp] theorem State.setDmac_dmac (d : Dmac) : (s.setDmac d).dmac = d := rfl
@[simp] theorem State.setDmac_panel (d : Dmac) : (s.setDmac d).panel = s.panel := rfl
@[simp] theorem State.setDmac_running (d : Dmac) : (s.setDmac d).running = s.running := rfl
@[simp] theorem State.setDmac_powered (d : Dmac) : (s.setDmac d).powered = s.powered := rfl
@[simp] theorem State.setDmac_schedule (d : Dmac) : (s.setDmac d).schedule = s.schedule := rfl
@[simp] theorem State.setDmac_freeCount (d : Dmac) : (s.setDmac d).freeCount = s.freeCount := rfl

@[simp] theorem State.setPanel_cpu (p : Panel) : (s.setPanel p).cpu = s.cpu := rfl
@[simp] theorem State.setPanel_config (p : Panel) : (s.setPanel p).config = s.config := rfl
@[simp] theorem State.setPanel_mem (p : Panel) : (s.setPanel p).mem = s.mem := rfl
@[simp] theorem State.setPanel_checkFails (p : Panel) : (s.setPanel p).checkFails = s.checkFails := rfl
@[simp] theorem State.setPanel_cru (p : Panel) : (s.setPanel p).cru = s.cru := rfl
@[simp] theorem State.setPanel_dmac (p : Panel) : (s.setPanel p).dmac = s.dmac := rfl
@[simp] theorem State.setPanel_panel (p : Panel) : (s.setPanel p).panel = p := rfl
@[simp] theorem State.setPanel_running (p : Panel) : (s.setPanel p).running = s.running := rfl
@[simp] theorem State.setPanel_powered (p : Panel) : (s.setPanel p).powered = s.powered := rfl
@[simp] theorem State.setPanel_schedule (p : Panel) : (s.setPanel p).schedule = s.schedule := rfl
@[simp] theorem State.setPanel_freeCount (p : Panel) : (s.setPanel p).freeCount = s.freeCount := rfl

@[simp] theorem State.setRunning_cpu (b : Bool) : (s.setRunning b).cpu = s.cpu := rfl
@[simp] theorem State.setRunning_config (b : Bool) : (s.setRunning b).config = s.config := rfl
@[simp] theorem State.setRunning_mem (b : Bool) : (s.setRunning b).mem = s.mem := rfl
@[simp] theorem State.setRunning_checkFails (b : Bool) : (s.setRunning b).checkFails = s.checkFails := rfl
@[simp] theorem State.setRunning_cru (b : Bool) : (s.setRunning b).cru = s.cru := rfl
@[simp] theorem State.setRunning_dmac (b : Bool) : (s.setRunning b).dmac = s.dmac := rfl
@[simp] theorem State.setRunning_panel (b : Bool) : (s.setRunning b).panel = s.panel := rfl
@[simp] theorem State.setRunning_running (b : Bool) : (s.setRunning b).running = b := rfl
@[simp] theorem State.setRunning_powered (b : Bool) : (s.setRunning b).powered = s.powered := rfl
@[simp] theorem State.setRunning_schedule (b : Bool) : (s.setRunning b).schedule = s.schedule := rfl
@[simp] theorem State.setRunning_freeCount (b : Bool) : (s.setRunning b).freeCount = s.freeCount := rfl

@[simp] theorem State.setPowered_cpu (b : Bool) : (s.setPowered b).cpu = s.cpu := rfl
@[simp] theorem State.setPowered_config (b : Bool) : (s.setPowered b).config = s.config := rfl
@[simp] theorem State.setPowered_mem (b : Bool) : (s.setPowered b).mem = s.mem := rfl
@[simp] theorem State.setPowered_checkFails (b : Bool) : (s.setPowered b).checkFails = s.checkFails := rfl
@[simp] theorem State.setPowered_cru (b : Bool) : (s.setPowered b).cru = s.cru := rfl
@[simp] theorem State.setPowered_dmac (b : Bool) : (s.setPowered b).dmac = s.dmac := rfl
@[simp] theorem State.setPowered_panel (b : Bool) : (s.setPowered b).panel = s.panel := rfl
@[simp] theorem State.setPowered_running (b : Bool) : (s.setPowered b).running = s.running := rfl
@[simp] theorem State.setPowered_powered (b : Bool) : (s.setPowered b).powered = b := rfl
@[simp] theorem State.setPowered_schedule (b : Bool) : (s.setPowered b).schedule = s.schedule := rfl
@[simp] theorem State.setPowered_freeCount (b : Bool) : (s.setPowered b).freeCount = s.freeCount := rfl

@[simp] theorem State.setSchedule_cpu (l : List Turn) : (s.setSchedule l).cpu = s.cpu := rfl
@[simp] theorem State.setSchedule_config (l : List Turn) : (s.setSchedule l).config = s.config := rfl
@[simp] theorem State.setSchedule_mem (l : List Turn) : (s.setSchedule l).mem = s.mem := rfl
@[simp] theorem State.setSchedule_checkFails (l : List Turn) : (s.setSchedule l).checkFails = s.checkFails := rfl
@[simp] theorem State.setSchedule_cru (l : List Turn) : (s.setSchedule l).cru = s.cru := rfl
@[simp] theorem State.setSchedule_dmac (l : List Turn) : (s.setSchedule l).dmac = s.dmac := rfl
@[simp] theorem State.setSchedule_panel (l : List Turn) : (s.setSchedule l).panel = s.panel := rfl
@[simp] theorem State.setSchedule_running (l : List Turn) : (s.setSchedule l).running = s.running := rfl
@[simp] theorem State.setSchedule_powered (l : List Turn) : (s.setSchedule l).powered = s.powered := rfl
@[simp] theorem State.setSchedule_schedule (l : List Turn) : (s.setSchedule l).schedule = l := rfl
@[simp] theorem State.setSchedule_freeCount (l : List Turn) : (s.setSchedule l).freeCount = s.freeCount := rfl

@[simp] theorem State.useFree_cpu : (s.useFree).cpu = s.cpu := rfl
@[simp] theorem State.useFree_config : (s.useFree).config = s.config := rfl
@[simp] theorem State.useFree_mem : (s.useFree).mem = s.mem := rfl
@[simp] theorem State.useFree_checkFails : (s.useFree).checkFails = s.checkFails := rfl
@[simp] theorem State.useFree_cru : (s.useFree).cru = s.cru := rfl
@[simp] theorem State.useFree_dmac : (s.useFree).dmac = s.dmac := rfl
@[simp] theorem State.useFree_panel : (s.useFree).panel = s.panel := rfl
@[simp] theorem State.useFree_running : (s.useFree).running = s.running := rfl
@[simp] theorem State.useFree_powered : (s.useFree).powered = s.powered := rfl
@[simp] theorem State.useFree_schedule : (s.useFree).schedule = s.schedule := rfl
@[simp] theorem State.useFree_freeCount : (s.useFree).freeCount = s.freeCount + 1 := rfl

end Sys2Proof.Machine
end

