-- ==== Sys2Proof/Laws/Memory.lean ====
section
/-! SUPPORT. The laws of the memory list: a read after a write gives the value written, a write leaves every other cell
alone, and every operation keeps the canonical form. -/

namespace Sys2Proof.Machine

/-! ### Reading after writing one cell -/

theorem Memory.readByte_filter (m : Memory) (k j : Nat) :
    Memory.readByte (m.filter (fun c => c.1 != k)) j = if j = k then 0#8 else Memory.readByte m j := by
  induction m with
  | nil => simp [Memory.readByte]
  | cons c m ih =>
    by_cases hc : c.1 = k
    · rw [List.filter_cons_of_neg (by simp [hc]), ih]
      by_cases hj : j = k
      · simp [hj]
      · simp [Memory.readByte, hc, hj, Ne.symm hj]
    · rw [List.filter_cons_of_pos (by simp [hc])]
      simp only [Memory.readByte, ih]
      by_cases hj : c.1 = j
      · subst hj; simp [hc]
      · simp [hj]

theorem Memory.readByte_insertCell (k : Nat) (v : Byte) (m : Memory) (h : ∀ c ∈ m, c.1 ≠ k) (j : Nat) :
    Memory.readByte (Memory.insertCell k v m) j = if j = k then v else Memory.readByte m j := by
  induction m with
  | nil =>
    by_cases hj : j = k
    · simp [Memory.insertCell, Memory.readByte, hj]
    · simp [Memory.insertCell, Memory.readByte, hj, Ne.symm hj]
  | cons c m ih =>
    have hc : c.1 ≠ k := h c (by simp)
    have ih := ih (fun d hd => h d (by simp [hd]))
    unfold Memory.insertCell
    split
    · by_cases hj : j = k
      · simp [Memory.readByte, hj]
      · simp [Memory.readByte, hj, Ne.symm hj]
    · simp only [Memory.readByte, ih]
      by_cases hj : c.1 = j
      · subst hj; simp [hc]
      · simp [hj]

theorem Memory.filter_ne (m : Memory) (k : Nat) : ∀ c ∈ m.filter (fun c => c.1 != k), c.1 ≠ k := by
  intro c hc
  simpa using (List.mem_filter.1 hc).2

/-- Read after write, and every other cell alone. -/
theorem Memory.readByte_writeByte (m : Memory) (k : Nat) (v : Byte) (j : Nat) :
    (m.writeByte k v).readByte j = if j = k then v else m.readByte j := by
  unfold Memory.writeByte
  split
  · rename_i hv; rw [Memory.readByte_filter, hv]
  · rw [Memory.readByte_insertCell _ _ _ (Memory.filter_ne m k), Memory.readByte_filter]
    split <;> rfl

@[simp] theorem upperByte_append_lowerByte (v : Word) : upperByte v ++ lowerByte v = v := by
  simp only [upperByte, lowerByte]
  apply BitVec.eq_of_getLsbD_eq
  intro i hi
  simp only [BitVec.getLsbD_append, BitVec.getLsbD_extractLsb']
  by_cases h : i < 8
  · simp [h]
  · simp [h, show i - 8 < 8 by omega, show 8 + (i - 8) = i by omega]

theorem Memory.readWord_writeWord (m : Memory) (a b : Nat) (v : Word) :
    (m.writeWord a v).readWord b = if b = a then v else m.readWord b := by
  simp only [Memory.readWord, Memory.writeWord, Memory.readByte_writeByte]
  by_cases h : b = a
  · subst h; simp
  · have h1 : 2 * b ≠ 2 * a + 1 := by omega
    have h2 : 2 * b ≠ 2 * a := by omega
    have h4 : 2 * b + 1 ≠ 2 * a := by omega
    simp [h, h1, h2, h4]

@[simp] theorem Memory.readWord_nil (a : Nat) : Memory.readWord [] a = 0#16 := by
  simp [Memory.readWord, Memory.readByte]

/-! ### The canonical form -/

/-- Every cell of the list satisfies `p`. -/
def Memory.onlyCells (m : Memory) (p : Nat → Prop) : Prop := ∀ c ∈ m, p c.1

theorem Memory.mem_insertCell (k : Nat) (v : Byte) (m : Memory) (d : Host.Cell) :
    d ∈ Memory.insertCell k v m ↔ d = (k, v) ∨ d ∈ m := by
  induction m with
  | nil => simp [Memory.insertCell]
  | cons c m ih =>
    unfold Memory.insertCell
    split
    · simp
    · simp only [List.mem_cons, ih]; tauto

theorem Memory.wf_iff (m : Memory) :
    m.wf = true ↔ m.Pairwise (fun x y => x.1 < y.1) ∧ ∀ c ∈ m, c.2 ≠ 0#8 := by
  simp [Memory.wf, List.all_eq_true]

theorem Memory.pairwise_insertCell (k : Nat) (v : Byte) (m : Memory) (h : m.Pairwise (fun x y => x.1 < y.1))
    (hk : ∀ c ∈ m, c.1 ≠ k) : (Memory.insertCell k v m).Pairwise (fun x y => x.1 < y.1) := by
  induction m with
  | nil => simp [Memory.insertCell]
  | cons c m ih =>
    have hp := List.pairwise_cons.1 h
    have hne : c.1 ≠ k := hk c (by simp)
    unfold Memory.insertCell
    split
    · rename_i hlt
      refine List.pairwise_cons.2 ⟨?_, h⟩
      intro d hd
      rcases List.mem_cons.1 hd with rfl | hd
      · exact hlt
      · exact Nat.lt_trans hlt (hp.1 d hd)
    · refine List.pairwise_cons.2 ⟨?_, ih hp.2 (fun d hd => hk d (by simp [hd]))⟩
      intro d hd
      rcases (Memory.mem_insertCell k v m d).1 hd with rfl | hd
      · show c.1 < k; omega
      · exact hp.1 d hd

theorem Memory.wf_writeByte (m : Memory) (k : Nat) (v : Byte) (h : m.wf = true) : (m.writeByte k v).wf = true := by
  obtain ⟨hp, hz⟩ := (Memory.wf_iff m).1 h
  have hf : (m.filter (fun c => c.1 != k)).Pairwise (fun x y => x.1 < y.1) := hp.filter _
  have hzf : ∀ c ∈ m.filter (fun c => c.1 != k), c.2 ≠ 0#8 := fun c hc => hz c (List.mem_filter.1 hc).1
  unfold Memory.writeByte
  split
  · exact (Memory.wf_iff _).2 ⟨hf, hzf⟩
  · rename_i hv
    refine (Memory.wf_iff _).2 ⟨Memory.pairwise_insertCell _ _ _ hf (Memory.filter_ne m k), ?_⟩
    intro c hc
    rcases (Memory.mem_insertCell _ _ _ c).1 hc with rfl | hc
    · exact hv
    · exact hzf c hc

theorem Memory.onlyCells_writeByte (m : Memory) (k : Nat) (v : Byte) (p : Nat → Prop) (h : m.onlyCells p) (hk : p k) :
    (m.writeByte k v).onlyCells p := by
  intro c hc
  unfold Memory.writeByte at hc
  split at hc
  · exact h c (List.mem_filter.1 hc).1
  · rcases (Memory.mem_insertCell _ _ _ c).1 hc with rfl | hc
    · exact hk
    · exact h c (List.mem_filter.1 hc).1

/-- Every write keeps the canonical form. -/
theorem Memory.wf_writeWord (m : Memory) (a : Nat) (v : Word) (h : m.wf = true) : (m.writeWord a v).wf = true :=
  Memory.wf_writeByte _ _ _ (Memory.wf_writeByte _ _ _ h)

theorem Memory.onlyCells_writeWord (m : Memory) (a : Nat) (v : Word) (p : Nat → Prop) (h : m.onlyCells p)
    (h0 : p (2 * a)) (h1 : p (2 * a + 1)) : (m.writeWord a v).onlyCells p :=
  Memory.onlyCells_writeByte _ _ _ _ (Memory.onlyCells_writeByte _ _ _ _ h h0) h1

theorem reset_memory_wf : State.reset.mem.wf = true := rfl

/-! ### The list of words with bad check bits -/

theorem mem_insertAddress (a b : Nat) (l : List Nat) : b ∈ insertAddress a l ↔ b = a ∨ b ∈ l := by
  induction l with
  | nil => simp [insertAddress]
  | cons c l ih =>
    unfold insertAddress
    split
    · simp
    · split
      · rename_i h; subst h; simp
      · simp only [List.mem_cons, ih]; tauto

theorem pairwise_insertAddress (a : Nat) (l : List Nat) (h : l.Pairwise (· < ·)) :
    (insertAddress a l).Pairwise (· < ·) := by
  induction l with
  | nil => simp [insertAddress]
  | cons c l ih =>
    have hp := List.pairwise_cons.1 h
    unfold insertAddress
    split
    · rename_i hlt
      refine List.pairwise_cons.2 ⟨?_, h⟩
      intro d hd
      rcases List.mem_cons.1 hd with rfl | hd
      · exact hlt
      · exact Nat.lt_trans hlt (hp.1 d hd)
    · split
      · exact h
      · refine List.pairwise_cons.2 ⟨?_, ih hp.2⟩
        intro d hd
        rcases (mem_insertAddress a d l).1 hd with rfl | hd
        · omega
        · exact hp.1 d hd

end Sys2Proof.Machine
end

