-- ==== Sys2Proof/Laws/Status.lean ====
section
/-! SUPPORT. The bits of `ST`: what each flag update writes and what it leaves (10_state.md R36, R40). -/

namespace Sys2Proof.Machine

/-! ### Bits of a word -/

theorem bit_bitMask : ∀ i j : Fin 16, bit (bitMask i) j = decide (i = j) := by decide

/-- Writing one bit, read back at any bit. -/
theorem bit_setBit (w : Word) (i j : Nat) (b : Bool) (hi : i < 16) (hj : j < 16) :
    bit (setBit w i b) j = if i = j then b else bit w j := by
  have h := bit_bitMask ⟨i, hi⟩ ⟨j, hj⟩
  simp only [Fin.mk.injEq] at h
  unfold setBit
  cases b <;> by_cases hij : i = j <;> simp_all [bit, BitVec.getMsbD_and, BitVec.getMsbD_or, BitVec.getMsbD_not]

/-- Two words are equal when their sixteen bits are. -/
theorem word_ext {x y : Word} (h : ∀ i, i < 16 → bit x i = bit y i) : x = y := by
  apply BitVec.eq_of_getMsbD_eq
  intro i hi
  exact h i hi

/-- Two words agree outside a mask when their bits do. -/
theorem masked_ext {x y m : Word} (h : ∀ i, i < 16 → bit m i = false → bit x i = bit y i) :
    x &&& ~~~m = y &&& ~~~m := by
  apply word_ext
  intro i hi
  by_cases hm : bit m i = true
  · simp_all [bit, BitVec.getMsbD_and, BitVec.getMsbD_not]
  · have := h i hi (by simpa using hm)
    simp_all [bit, BitVec.getMsbD_and, BitVec.getMsbD_not]

theorem bit_of_masked {x y m : Word} (h : x &&& ~~~m = y &&& ~~~m) {i : Nat} (hi : i < 16) (hm : bit m i = false) :
    bit x i = bit y i := by
  have := congrArg (fun w => bit w i) h
  clear h
  simp_all [bit, BitVec.getMsbD_and, BitVec.getMsbD_not]

/-- The bits of a status word with a new comparison code. -/
theorem bit_withComparison (st : Word) (c : Comparison) (j : Nat) (hj : j < 16) :
    bit (withComparison st c) j =
      if j = bitGT then c == .greater else if j = bitEQ then c == .equal else if j = bitLT then c == .less else bit st j := by
  simp only [withComparison, bitGT, bitEQ, bitLT]
  rw [bit_setBit _ _ _ _ (by decide) hj, bit_setBit _ _ _ _ (by decide) hj, bit_setBit _ _ _ _ (by decide) hj]
  interval_cases j <;> simp

/-! ### Fields a flag update leaves alone -/

variable (s : State)

@[simp] theorem State.setMode_regs (m : Mode) : (s.setMode m).cpu.regs = s.cpu.regs := rfl
@[simp] theorem State.setMode_pc (m : Mode) : (s.setMode m).cpu.pc = s.cpu.pc := rfl
@[simp] theorem State.setMode_ec (m : Mode) : (s.setMode m).cpu.ec = s.cpu.ec := rfl
@[simp] theorem State.setMode_ia (m : Mode) : (s.setMode m).cpu.ia = s.cpu.ia := rfl
@[simp] theorem State.setMode_ib (m : Mode) : (s.setMode m).cpu.ib = s.cpu.ib := rfl
@[simp] theorem State.setMode_internalPending (m : Mode) : (s.setMode m).cpu.internalPending = s.cpu.internalPending := rfl
@[simp] theorem State.setMode_config (m : Mode) : (s.setMode m).config = s.config := rfl
@[simp] theorem State.setMode_mem (m : Mode) : (s.setMode m).mem = s.mem := rfl
@[simp] theorem State.setMode_checkFails (m : Mode) : (s.setMode m).checkFails = s.checkFails := rfl
@[simp] theorem State.setMode_cru (m : Mode) : (s.setMode m).cru = s.cru := rfl
@[simp] theorem State.setMode_dmac (m : Mode) : (s.setMode m).dmac = s.dmac := rfl
@[simp] theorem State.setMode_panel (m : Mode) : (s.setMode m).panel = s.panel := rfl
@[simp] theorem State.setMode_running (m : Mode) : (s.setMode m).running = s.running := rfl
@[simp] theorem State.setMode_powered (m : Mode) : (s.setMode m).powered = s.powered := rfl
@[simp] theorem State.setMode_schedule (m : Mode) : (s.setMode m).schedule = s.schedule := rfl
@[simp] theorem State.setMode_freeCount (m : Mode) : (s.setMode m).freeCount = s.freeCount := rfl

@[simp] theorem State.setOverflow_regs (b : Bool) : (s.setOverflow b).cpu.regs = s.cpu.regs := rfl
@[simp] theorem State.setOverflow_pc (b : Bool) : (s.setOverflow b).cpu.pc = s.cpu.pc := rfl
@[simp] theorem State.setOverflow_ec (b : Bool) : (s.setOverflow b).cpu.ec = s.cpu.ec := rfl
@[simp] theorem State.setOverflow_ia (b : Bool) : (s.setOverflow b).cpu.ia = s.cpu.ia := rfl
@[simp] theorem State.setOverflow_ib (b : Bool) : (s.setOverflow b).cpu.ib = s.cpu.ib := rfl
@[simp] theorem State.setOverflow_internalPending (b : Bool) : (s.setOverflow b).cpu.internalPending = s.cpu.internalPending := rfl
@[simp] theorem State.setOverflow_config (b : Bool) : (s.setOverflow b).config = s.config := rfl
@[simp] theorem State.setOverflow_mem (b : Bool) : (s.setOverflow b).mem = s.mem := rfl
@[simp] theorem State.setOverflow_checkFails (b : Bool) : (s.setOverflow b).checkFails = s.checkFails := rfl
@[simp] theorem State.setOverflow_cru (b : Bool) : (s.setOverflow b).cru = s.cru := rfl
@[simp] theorem State.setOverflow_dmac (b : Bool) : (s.setOverflow b).dmac = s.dmac := rfl
@[simp] theorem State.setOverflow_panel (b : Bool) : (s.setOverflow b).panel = s.panel := rfl
@[simp] theorem State.setOverflow_running (b : Bool) : (s.setOverflow b).running = s.running := rfl
@[simp] theorem State.setOverflow_powered (b : Bool) : (s.setOverflow b).powered = s.powered := rfl
@[simp] theorem State.setOverflow_schedule (b : Bool) : (s.setOverflow b).schedule = s.schedule := rfl
@[simp] theorem State.setOverflow_freeCount (b : Bool) : (s.setOverflow b).freeCount = s.freeCount := rfl

@[simp] theorem State.setCarry_regs (b : Bool) : (s.setCarry b).cpu.regs = s.cpu.regs := rfl
@[simp] theorem State.setCarry_pc (b : Bool) : (s.setCarry b).cpu.pc = s.cpu.pc := rfl
@[simp] theorem State.setCarry_ec (b : Bool) : (s.setCarry b).cpu.ec = s.cpu.ec := rfl
@[simp] theorem State.setCarry_ia (b : Bool) : (s.setCarry b).cpu.ia = s.cpu.ia := rfl
@[simp] theorem State.setCarry_ib (b : Bool) : (s.setCarry b).cpu.ib = s.cpu.ib := rfl
@[simp] theorem State.setCarry_internalPending (b : Bool) : (s.setCarry b).cpu.internalPending = s.cpu.internalPending := rfl
@[simp] theorem State.setCarry_config (b : Bool) : (s.setCarry b).config = s.config := rfl
@[simp] theorem State.setCarry_mem (b : Bool) : (s.setCarry b).mem = s.mem := rfl
@[simp] theorem State.setCarry_checkFails (b : Bool) : (s.setCarry b).checkFails = s.checkFails := rfl
@[simp] theorem State.setCarry_cru (b : Bool) : (s.setCarry b).cru = s.cru := rfl
@[simp] theorem State.setCarry_dmac (b : Bool) : (s.setCarry b).dmac = s.dmac := rfl
@[simp] theorem State.setCarry_panel (b : Bool) : (s.setCarry b).panel = s.panel := rfl
@[simp] theorem State.setCarry_running (b : Bool) : (s.setCarry b).running = s.running := rfl
@[simp] theorem State.setCarry_powered (b : Bool) : (s.setCarry b).powered = s.powered := rfl
@[simp] theorem State.setCarry_schedule (b : Bool) : (s.setCarry b).schedule = s.schedule := rfl
@[simp] theorem State.setCarry_freeCount (b : Bool) : (s.setCarry b).freeCount = s.freeCount := rfl

@[simp] theorem State.setComparison_regs (c : Comparison) : (s.setComparison c).cpu.regs = s.cpu.regs := rfl
@[simp] theorem State.setComparison_pc (c : Comparison) : (s.setComparison c).cpu.pc = s.cpu.pc := rfl
@[simp] theorem State.setComparison_ec (c : Comparison) : (s.setComparison c).cpu.ec = s.cpu.ec := rfl
@[simp] theorem State.setComparison_ia (c : Comparison) : (s.setComparison c).cpu.ia = s.cpu.ia := rfl
@[simp] theorem State.setComparison_ib (c : Comparison) : (s.setComparison c).cpu.ib = s.cpu.ib := rfl
@[simp] theorem State.setComparison_internalPending (c : Comparison) : (s.setComparison c).cpu.internalPending = s.cpu.internalPending := rfl
@[simp] theorem State.setComparison_config (c : Comparison) : (s.setComparison c).config = s.config := rfl
@[simp] theorem State.setComparison_mem (c : Comparison) : (s.setComparison c).mem = s.mem := rfl
@[simp] theorem State.setComparison_checkFails (c : Comparison) : (s.setComparison c).checkFails = s.checkFails := rfl
@[simp] theorem State.setComparison_cru (c : Comparison) : (s.setComparison c).cru = s.cru := rfl
@[simp] theorem State.setComparison_dmac (c : Comparison) : (s.setComparison c).dmac = s.dmac := rfl
@[simp] theorem State.setComparison_panel (c : Comparison) : (s.setComparison c).panel = s.panel := rfl
@[simp] theorem State.setComparison_running (c : Comparison) : (s.setComparison c).running = s.running := rfl
@[simp] theorem State.setComparison_powered (c : Comparison) : (s.setComparison c).powered = s.powered := rfl
@[simp] theorem State.setComparison_schedule (c : Comparison) : (s.setComparison c).schedule = s.schedule := rfl
@[simp] theorem State.setComparison_freeCount (c : Comparison) : (s.setComparison c).freeCount = s.freeCount := rfl

@[simp] theorem State.setCB_regs (v : Word) : (s.setCB v).cpu.regs = s.cpu.regs := rfl
@[simp] theorem State.setCB_pc (v : Word) : (s.setCB v).cpu.pc = s.cpu.pc := rfl
@[simp] theorem State.setCB_ec (v : Word) : (s.setCB v).cpu.ec = s.cpu.ec := rfl
@[simp] theorem State.setCB_ia (v : Word) : (s.setCB v).cpu.ia = s.cpu.ia := rfl
@[simp] theorem State.setCB_ib (v : Word) : (s.setCB v).cpu.ib = s.cpu.ib := rfl
@[simp] theorem State.setCB_internalPending (v : Word) : (s.setCB v).cpu.internalPending = s.cpu.internalPending := rfl
@[simp] theorem State.setCB_config (v : Word) : (s.setCB v).config = s.config := rfl
@[simp] theorem State.setCB_mem (v : Word) : (s.setCB v).mem = s.mem := rfl
@[simp] theorem State.setCB_checkFails (v : Word) : (s.setCB v).checkFails = s.checkFails := rfl
@[simp] theorem State.setCB_cru (v : Word) : (s.setCB v).cru = s.cru := rfl
@[simp] theorem State.setCB_dmac (v : Word) : (s.setCB v).dmac = s.dmac := rfl
@[simp] theorem State.setCB_panel (v : Word) : (s.setCB v).panel = s.panel := rfl
@[simp] theorem State.setCB_running (v : Word) : (s.setCB v).running = s.running := rfl
@[simp] theorem State.setCB_powered (v : Word) : (s.setCB v).powered = s.powered := rfl
@[simp] theorem State.setCB_schedule (v : Word) : (s.setCB v).schedule = s.schedule := rfl
@[simp] theorem State.setCB_freeCount (v : Word) : (s.setCB v).freeCount = s.freeCount := rfl

/-! ### `ST` after a flag update -/

theorem State.setMode_st (m : Mode) : (s.setMode m).cpu.st = setBit s.cpu.st bitMI (Mode.bit m) := rfl
theorem State.setOverflow_st (b : Bool) : (s.setOverflow b).cpu.st = setBit s.cpu.st bitOI b := rfl
theorem State.setCarry_st (b : Bool) : (s.setCarry b).cpu.st = setBit s.cpu.st bitCO b := rfl
theorem State.setComparison_st (c : Comparison) : (s.setComparison c).cpu.st = withComparison s.cpu.st c := rfl
theorem State.setCB_st (v : Word) : (s.setCB v).cpu.st = withComparison s.cpu.st (compareZero v) := rfl

theorem State.setMode_bit (m : Mode) (j : Nat) (hj : j < 16) :
    bit (s.setMode m).cpu.st j = if bitMI = j then Mode.bit m else bit s.cpu.st j :=
  bit_setBit _ _ _ _ (by decide) hj

theorem State.setOverflow_bit (b : Bool) (j : Nat) (hj : j < 16) :
    bit (s.setOverflow b).cpu.st j = if bitOI = j then b else bit s.cpu.st j :=
  bit_setBit _ _ _ _ (by decide) hj

theorem State.setCarry_bit (b : Bool) (j : Nat) (hj : j < 16) :
    bit (s.setCarry b).cpu.st j = if bitCO = j then b else bit s.cpu.st j :=
  bit_setBit _ _ _ _ (by decide) hj

theorem State.setComparison_bit (c : Comparison) (j : Nat) (hj : j < 16) :
    bit (s.setComparison c).cpu.st j =
      if j = bitGT then c == .greater else if j = bitEQ then c == .equal else if j = bitLT then c == .less
      else bit s.cpu.st j :=
  bit_withComparison _ _ _ hj

theorem State.setCB_bit (v : Word) (j : Nat) (hj : j < 16) :
    bit (s.setCB v).cpu.st j =
      if j = bitGT then compareZero v == .greater else if j = bitEQ then compareZero v == .equal
      else if j = bitLT then compareZero v == .less else bit s.cpu.st j :=
  bit_withComparison _ _ _ hj

/-! ### The mode -/

theorem modeOf_congr {x y : Word} (h : bit x bitMI = bit y bitMI) : modeOf x = modeOf y := by
  simp [modeOf, h]

@[simp] theorem State.setMode_mode (m : Mode) : (s.setMode m).mode = m := by
  have h := s.setMode_bit m bitMI (by decide)
  cases m <;> simp_all [State.mode, modeOf, Mode.bit]

@[simp] theorem State.setOverflow_mode (b : Bool) : (s.setOverflow b).mode = s.mode :=
  modeOf_congr (by rw [State.setOverflow_bit _ _ _ (by decide)]; rfl)
@[simp] theorem State.setCarry_mode (b : Bool) : (s.setCarry b).mode = s.mode :=
  modeOf_congr (by rw [State.setCarry_bit _ _ _ (by decide)]; rfl)
@[simp] theorem State.setComparison_mode (c : Comparison) : (s.setComparison c).mode = s.mode :=
  modeOf_congr (by rw [State.setComparison_bit _ _ _ (by decide)]; rfl)
@[simp] theorem State.setCB_mode (v : Word) : (s.setCB v).mode = s.mode :=
  modeOf_congr (by rw [State.setCB_bit _ _ _ (by decide)]; rfl)

@[simp] theorem State.setPc_mode (v : Word) : (s.setPc v).mode = s.mode := rfl
@[simp] theorem State.setEc_mode (v : Word) : (s.setEc v).mode = s.mode := rfl
@[simp] theorem State.setIa_mode (v : Word) : (s.setIa v).mode = s.mode := rfl
@[simp] theorem State.setIb_mode (v : Word) : (s.setIb v).mode = s.mode := rfl
@[simp] theorem State.setPending_mode (b : Bool) : (s.setPending b).mode = s.mode := rfl
@[simp] theorem State.setReg_mode (i : FileIndex) (v : Word) : (s.setReg i v).mode = s.mode := rfl
@[simp] theorem State.setMem_mode (m : Memory) : (s.setMem m).mode = s.mode := rfl
@[simp] theorem State.setCheckFails_mode (l : List Nat) : (s.setCheckFails l).mode = s.mode := rfl
@[simp] theorem State.setCru_mode (c : Cru) : (s.setCru c).mode = s.mode := rfl
@[simp] theorem State.setDmac_mode (d : Dmac) : (s.setDmac d).mode = s.mode := rfl
@[simp] theorem State.setPanel_mode (p : Panel) : (s.setPanel p).mode = s.mode := rfl
@[simp] theorem State.useFree_mode : (s.useFree).mode = s.mode := rfl

@[simp] theorem otherMode_otherMode (m : Mode) : otherMode (otherMode m) = m := by cases m <;> rfl
theorem otherMode_ne (m : Mode) : otherMode m ≠ m := by cases m <;> decide
theorem mode_eq_or (m n : Mode) : n = m ∨ n = otherMode m := by cases m <;> cases n <;> decide

/-! ### Registers -/

@[simp] theorem State.reg_setReg (i j : FileIndex) (v : Word) : (s.setReg i v).reg j = if i = j then v else s.reg j := by
  simp only [State.reg, State.setReg_regs, Fin.getElem_fin, Vector.getElem_set, Fin.ext_iff]

@[simp] theorem State.reg_setPc (v : Word) (j : FileIndex) : (s.setPc v).reg j = s.reg j := rfl
@[simp] theorem State.reg_setEc (v : Word) (j : FileIndex) : (s.setEc v).reg j = s.reg j := rfl
@[simp] theorem State.reg_setIa (v : Word) (j : FileIndex) : (s.setIa v).reg j = s.reg j := rfl
@[simp] theorem State.reg_setIb (v : Word) (j : FileIndex) : (s.setIb v).reg j = s.reg j := rfl
@[simp] theorem State.reg_setPending (b : Bool) (j : FileIndex) : (s.setPending b).reg j = s.reg j := rfl
@[simp] theorem State.reg_setMem (m : Memory) (j : FileIndex) : (s.setMem m).reg j = s.reg j := rfl
@[simp] theorem State.reg_setCheckFails (l : List Nat) (j : FileIndex) : (s.setCheckFails l).reg j = s.reg j := rfl
@[simp] theorem State.reg_setCru (c : Cru) (j : FileIndex) : (s.setCru c).reg j = s.reg j := rfl
@[simp] theorem State.reg_setDmac (d : Dmac) (j : FileIndex) : (s.setDmac d).reg j = s.reg j := rfl
@[simp] theorem State.reg_setPanel (p : Panel) (j : FileIndex) : (s.setPanel p).reg j = s.reg j := rfl
@[simp] theorem State.reg_useFree (j : FileIndex) : (s.useFree).reg j = s.reg j := rfl
@[simp] theorem State.reg_setMode (m : Mode) (j : FileIndex) : (s.setMode m).reg j = s.reg j := rfl
@[simp] theorem State.reg_setOverflow (b : Bool) (j : FileIndex) : (s.setOverflow b).reg j = s.reg j := rfl
@[simp] theorem State.reg_setCarry (b : Bool) (j : FileIndex) : (s.setCarry b).reg j = s.reg j := rfl
@[simp] theorem State.reg_setComparison (c : Comparison) (j : FileIndex) : (s.setComparison c).reg j = s.reg j := rfl
@[simp] theorem State.reg_setCB (v : Word) (j : FileIndex) : (s.setCB v).reg j = s.reg j := rfl
@[simp] theorem State.reg_setSt (v : Word) (j : FileIndex) : (s.setSt v).reg j = s.reg j := rfl
@[simp] theorem State.reg_setRunning (b : Bool) (j : FileIndex) : (s.setRunning b).reg j = s.reg j := rfl
@[simp] theorem State.reg_setPowered (b : Bool) (j : FileIndex) : (s.setPowered b).reg j = s.reg j := rfl
@[simp] theorem State.reg_setSchedule (l : List Turn) (j : FileIndex) : (s.setSchedule l).reg j = s.reg j := rfl

/-! ### The location counters -/

@[simp] theorem State.lcOf_setLcOf (m n : Mode) (v : Word) :
    (s.setLcOf m v).lcOf n = if n = m then v else s.lcOf n := by
  cases m <;> cases n <;> rfl

@[simp] theorem State.setLcOf_mode (m : Mode) (v : Word) : (s.setLcOf m v).mode = s.mode := by cases m <;> rfl
@[simp] theorem State.setLcOf_reg (m : Mode) (v : Word) (j : FileIndex) : (s.setLcOf m v).reg j = s.reg j := by
  cases m <;> rfl
@[simp] theorem State.setLc_reg (v : Word) (j : FileIndex) : (s.setLc v).reg j = s.reg j := s.setLcOf_reg _ _ _
@[simp] theorem State.setLc_mode (v : Word) : (s.setLc v).mode = s.mode := s.setLcOf_mode _ _
@[simp] theorem State.lc_setLc (v : Word) : (s.setLc v).lc = v := by simp [State.lc, State.setLc]
@[simp] theorem State.setLcOf_regs (m : Mode) (v : Word) : (s.setLcOf m v).cpu.regs = s.cpu.regs := by cases m <;> rfl
@[simp] theorem State.setLc_regs (v : Word) : (s.setLc v).cpu.regs = s.cpu.regs := s.setLcOf_regs _ _
@[simp] theorem State.setLcOf_st (m : Mode) (v : Word) : (s.setLcOf m v).cpu.st = s.cpu.st := by cases m <;> rfl
@[simp] theorem State.setLc_st (v : Word) : (s.setLc v).cpu.st = s.cpu.st := s.setLcOf_st _ _
@[simp] theorem State.setLcOf_ia (m : Mode) (v : Word) : (s.setLcOf m v).cpu.ia = s.cpu.ia := by cases m <;> rfl
@[simp] theorem State.setLc_ia (v : Word) : (s.setLc v).cpu.ia = s.cpu.ia := s.setLcOf_ia _ _
@[simp] theorem State.setLcOf_ib (m : Mode) (v : Word) : (s.setLcOf m v).cpu.ib = s.cpu.ib := by cases m <;> rfl
@[simp] theorem State.setLc_ib (v : Word) : (s.setLc v).cpu.ib = s.cpu.ib := s.setLcOf_ib _ _
@[simp] theorem State.setLcOf_internalPending (m : Mode) (v : Word) : (s.setLcOf m v).cpu.internalPending = s.cpu.internalPending := by cases m <;> rfl
@[simp] theorem State.setLc_internalPending (v : Word) : (s.setLc v).cpu.internalPending = s.cpu.internalPending := s.setLcOf_internalPending _ _
@[simp] theorem State.setLcOf_config (m : Mode) (v : Word) : (s.setLcOf m v).config = s.config := by cases m <;> rfl
@[simp] theorem State.setLc_config (v : Word) : (s.setLc v).config = s.config := s.setLcOf_config _ _
@[simp] theorem State.setLcOf_mem (m : Mode) (v : Word) : (s.setLcOf m v).mem = s.mem := by cases m <;> rfl
@[simp] theorem State.setLc_mem (v : Word) : (s.setLc v).mem = s.mem := s.setLcOf_mem _ _
@[simp] theorem State.setLcOf_checkFails (m : Mode) (v : Word) : (s.setLcOf m v).checkFails = s.checkFails := by cases m <;> rfl
@[simp] theorem State.setLc_checkFails (v : Word) : (s.setLc v).checkFails = s.checkFails := s.setLcOf_checkFails _ _
@[simp] theorem State.setLcOf_cru (m : Mode) (v : Word) : (s.setLcOf m v).cru = s.cru := by cases m <;> rfl
@[simp] theorem State.setLc_cru (v : Word) : (s.setLc v).cru = s.cru := s.setLcOf_cru _ _
@[simp] theorem State.setLcOf_dmac (m : Mode) (v : Word) : (s.setLcOf m v).dmac = s.dmac := by cases m <;> rfl
@[simp] theorem State.setLc_dmac (v : Word) : (s.setLc v).dmac = s.dmac := s.setLcOf_dmac _ _
@[simp] theorem State.setLcOf_panel (m : Mode) (v : Word) : (s.setLcOf m v).panel = s.panel := by cases m <;> rfl
@[simp] theorem State.setLc_panel (v : Word) : (s.setLc v).panel = s.panel := s.setLcOf_panel _ _
@[simp] theorem State.setLcOf_running (m : Mode) (v : Word) : (s.setLcOf m v).running = s.running := by cases m <;> rfl
@[simp] theorem State.setLc_running (v : Word) : (s.setLc v).running = s.running := s.setLcOf_running _ _
@[simp] theorem State.setLcOf_powered (m : Mode) (v : Word) : (s.setLcOf m v).powered = s.powered := by cases m <;> rfl
@[simp] theorem State.setLc_powered (v : Word) : (s.setLc v).powered = s.powered := s.setLcOf_powered _ _
@[simp] theorem State.setLcOf_schedule (m : Mode) (v : Word) : (s.setLcOf m v).schedule = s.schedule := by cases m <;> rfl
@[simp] theorem State.setLc_schedule (v : Word) : (s.setLc v).schedule = s.schedule := s.setLcOf_schedule _ _
@[simp] theorem State.setLcOf_freeCount (m : Mode) (v : Word) : (s.setLcOf m v).freeCount = s.freeCount := by cases m <;> rfl
@[simp] theorem State.setLc_freeCount (v : Word) : (s.setLc v).freeCount = s.freeCount := s.setLcOf_freeCount _ _

/-! ### Raising an internal cause -/

theorem State.raiseInternal_st (c : Cause) : (s.raiseInternal c).cpu.st = setBit s.cpu.st (causeBit c) true := by
  unfold State.raiseInternal
  split
  · split <;> rfl
  · rfl

@[simp] theorem State.raiseInternal_regs (c : Cause) : (s.raiseInternal c).cpu.regs = s.cpu.regs := by
  unfold State.raiseInternal; split
  · split <;> rfl
  · rfl
@[simp] theorem State.raiseInternal_pc (c : Cause) : (s.raiseInternal c).cpu.pc = s.cpu.pc := by
  unfold State.raiseInternal; split
  · split <;> rfl
  · rfl
@[simp] theorem State.raiseInternal_ec (c : Cause) : (s.raiseInternal c).cpu.ec = s.cpu.ec := by
  unfold State.raiseInternal; split
  · split <;> rfl
  · rfl
@[simp] theorem State.raiseInternal_ia (c : Cause) : (s.raiseInternal c).cpu.ia = s.cpu.ia := by
  unfold State.raiseInternal; split
  · split <;> rfl
  · rfl
@[simp] theorem State.raiseInternal_ib (c : Cause) : (s.raiseInternal c).cpu.ib = s.cpu.ib := by
  unfold State.raiseInternal; split
  · split <;> rfl
  · rfl
@[simp] theorem State.raiseInternal_config (c : Cause) : (s.raiseInternal c).config = s.config := by
  unfold State.raiseInternal; split
  · split <;> rfl
  · rfl
@[simp] theorem State.raiseInternal_mem (c : Cause) : (s.raiseInternal c).mem = s.mem := by
  unfold State.raiseInternal; split
  · split <;> rfl
  · rfl
@[simp] theorem State.raiseInternal_checkFails (c : Cause) : (s.raiseInternal c).checkFails = s.checkFails := by
  unfold State.raiseInternal; split
  · split <;> rfl
  · rfl
@[simp] theorem State.raiseInternal_cru (c : Cause) : (s.raiseInternal c).cru = s.cru := by
  unfold State.raiseInternal; split
  · split <;> rfl
  · rfl
@[simp] theorem State.raiseInternal_dmac (c : Cause) : (s.raiseInternal c).dmac = s.dmac := by
  unfold State.raiseInternal; split
  · split <;> rfl
  · rfl
@[simp] theorem State.raiseInternal_panel (c : Cause) : (s.raiseInternal c).panel = s.panel := by
  unfold State.raiseInternal; split
  · split <;> rfl
  · rfl
@[simp] theorem State.raiseInternal_running (c : Cause) : (s.raiseInternal c).running = s.running := by
  unfold State.raiseInternal; split
  · split <;> rfl
  · rfl
@[simp] theorem State.raiseInternal_powered (c : Cause) : (s.raiseInternal c).powered = s.powered := by
  unfold State.raiseInternal; split
  · split <;> rfl
  · rfl
@[simp] theorem State.raiseInternal_schedule (c : Cause) : (s.raiseInternal c).schedule = s.schedule := by
  unfold State.raiseInternal; split
  · split <;> rfl
  · rfl
@[simp] theorem State.raiseInternal_freeCount (c : Cause) : (s.raiseInternal c).freeCount = s.freeCount := by
  unfold State.raiseInternal; split
  · split <;> rfl
  · rfl
@[simp] theorem State.reg_raiseInternal (c : Cause) (j : FileIndex) : (s.raiseInternal c).reg j = s.reg j := by
  simp [State.reg]

theorem causeBit_lt (c : Cause) : causeBit c < 16 := by cases c <;> decide

theorem State.raiseInternal_bit (c : Cause) (j : Nat) (hj : j < 16) :
    bit (s.raiseInternal c).cpu.st j = if causeBit c = j then true else bit s.cpu.st j := by
  rw [State.raiseInternal_st]; exact bit_setBit _ _ _ _ (causeBit_lt c) hj

@[simp] theorem State.raiseInternal_mode (c : Cause) : (s.raiseInternal c).mode = s.mode :=
  modeOf_congr (by rw [State.raiseInternal_bit _ _ _ (by decide)]; cases c <;> rfl)

/-- The request latch after a cause is raised (R376, R378). -/
theorem State.raiseInternal_internalPending (c : Cause) :
    (s.raiseInternal c).cpu.internalPending =
      (if bit s.cpu.st bitII && s.config.maskedPolicy == .drop then s.cpu.internalPending else true) := by
  unfold State.raiseInternal
  cases h : bit s.cpu.st bitII <;> cases s.config.maskedPolicy <;> simp

end Sys2Proof.Machine
end

