-- ==== Sys2Proof/Laws/Access.lean ====
section
/-! SUPPORT. Reading and writing the address space: where an address leads, what a read answers and costs, what a store or a
write changes (20_memory.md R63, R70; 60_exceptions.md R372, R375). -/

namespace Sys2Proof.Machine

variable (s : State)

/-! ### Places -/

@[simp] theorem placeOf_regAddress (i : FileIndex) : placeOf (regAddress i) = .register i := by
  revert i; decide

theorem regAddress_of_placeOf {a : Word} {i : FileIndex} (h : placeOf a = .register i) : a = regAddress i := by
  unfold placeOf at h
  split at h
  · rename_i hw
    obtain rfl : (⟨a.toNat - 0x80, by omega⟩ : FileIndex) = i := by simpa using h
    simp only [regAddress]
    rw [show 0x80 + (a.toNat - 0x80) = a.toNat by omega]
    simp
  · simp at h

theorem toNat_of_placeOf {a : Word} {k : Nat} (h : placeOf a = .memory k) : k = a.toNat := by
  unfold placeOf at h
  split at h
  · simp at h
  · simpa using h.symm

theorem inWindow_of_placeOf {a : Word} {k : Nat} (h : placeOf a = .memory k) : inWindow k = false := by
  unfold placeOf at h
  split at h
  · simp at h
  · rename_i hw
    obtain rfl : a.toNat = k := by simpa using h
    simp [inWindow]; omega

theorem placeOf_injective {a b : Word} (h : placeOf a = placeOf b) : a = b := by
  cases ha : placeOf a with
  | register i => rw [regAddress_of_placeOf ha, regAddress_of_placeOf (h.symm.trans ha)]
  | memory k =>
    have h1 := toNat_of_placeOf ha
    have h2 := toNat_of_placeOf (h.symm.trans ha)
    exact BitVec.eq_of_toNat_eq (h1.symm.trans h2)

@[simp] theorem regAddress_inj (i j : FileIndex) : regAddress i = regAddress j ↔ i = j := by
  revert i j; decide

/-- A register read as a word of the address space. -/
@[simp] theorem State.peek_regAddress (i : FileIndex) : s.peek (regAddress i) = s.reg i := by
  simp [State.peek]

theorem State.peek_memory {a : Word} {k : Nat} (h : placeOf a = .memory k) : s.peek a = s.mem.readWord k := by
  simp [State.peek, h]

/-- A word of the address space depends on the registers and the memory list only. -/
theorem State.peek_congr {s t : State} (hr : t.cpu.regs = s.cpu.regs) (hm : t.mem = s.mem) (a : Word) :
    t.peek a = s.peek a := by
  simp [State.peek, State.reg, hr, hm]

@[simp] theorem State.peek_setPc (v : Word) (b' : Word) : (s.setPc v).peek b' = s.peek b' := rfl
@[simp] theorem State.peek_setEc (v : Word) (b' : Word) : (s.setEc v).peek b' = s.peek b' := rfl
@[simp] theorem State.peek_setSt (v : Word) (b' : Word) : (s.setSt v).peek b' = s.peek b' := rfl
@[simp] theorem State.peek_setIa (v : Word) (b' : Word) : (s.setIa v).peek b' = s.peek b' := rfl
@[simp] theorem State.peek_setIb (v : Word) (b' : Word) : (s.setIb v).peek b' = s.peek b' := rfl
@[simp] theorem State.peek_setPending (b : Bool) (b' : Word) : (s.setPending b).peek b' = s.peek b' := rfl
@[simp] theorem State.peek_setCheckFails (l : List Nat) (b' : Word) : (s.setCheckFails l).peek b' = s.peek b' := rfl
@[simp] theorem State.peek_setCru (c : Cru) (b' : Word) : (s.setCru c).peek b' = s.peek b' := rfl
@[simp] theorem State.peek_setDmac (d : Dmac) (b' : Word) : (s.setDmac d).peek b' = s.peek b' := rfl
@[simp] theorem State.peek_setPanel (p : Panel) (b' : Word) : (s.setPanel p).peek b' = s.peek b' := rfl
@[simp] theorem State.peek_setRunning (b : Bool) (b' : Word) : (s.setRunning b).peek b' = s.peek b' := rfl
@[simp] theorem State.peek_setPowered (b : Bool) (b' : Word) : (s.setPowered b).peek b' = s.peek b' := rfl
@[simp] theorem State.peek_setSchedule (l : List Turn) (b' : Word) : (s.setSchedule l).peek b' = s.peek b' := rfl
@[simp] theorem State.peek_useFree (b' : Word) : (s.useFree).peek b' = s.peek b' := rfl
@[simp] theorem State.peek_setMode (m : Mode) (b' : Word) : (s.setMode m).peek b' = s.peek b' := rfl
@[simp] theorem State.peek_setOverflow (b : Bool) (b' : Word) : (s.setOverflow b).peek b' = s.peek b' := rfl
@[simp] theorem State.peek_setCarry (b : Bool) (b' : Word) : (s.setCarry b).peek b' = s.peek b' := rfl
@[simp] theorem State.peek_setComparison (c : Comparison) (b' : Word) : (s.setComparison c).peek b' = s.peek b' := rfl
@[simp] theorem State.peek_setCB (v : Word) (b' : Word) : (s.setCB v).peek b' = s.peek b' := rfl
@[simp] theorem State.peek_setLcOf (m : Mode) (v b' : Word) : (s.setLcOf m v).peek b' = s.peek b' := by cases m <;> rfl
@[simp] theorem State.peek_setLc (v b' : Word) : (s.setLc v).peek b' = s.peek b' := s.peek_setLcOf _ _ _
@[simp] theorem State.peek_raiseInternal (c : Cause) (b' : Word) : (s.raiseInternal c).peek b' = s.peek b' :=
  State.peek_congr (by simp) (by simp) b'

theorem State.peek_setReg (i : FileIndex) (v b' : Word) :
    (s.setReg i v).peek b' = if b' = regAddress i then v else s.peek b' := by
  by_cases h : b' = regAddress i
  · subst h; simp
  · rw [if_neg h]
    cases hp : placeOf b' with
    | register j =>
      have hb := regAddress_of_placeOf hp
      have hij : ¬ i = j := fun e => h (by rw [hb, e])
      rw [hb]; simp [hij]
    | memory k => rw [State.peek_memory _ hp, State.peek_memory _ hp]; rfl

/-! ### Reading -/

/-- Everything a read can do to the state: nothing; use a free value; use one and raise MP. -/
theorem State.read_after (a : Word) :
    (s.read a).2 = s ∨ (s.read a).2 = s.useFree ∨ (s.read a).2 = s.useFree.raiseInternal .mp := by
  unfold State.read
  split
  · simp
  · split
    · split <;> simp
    · simp

/-- A sound word reads as it stands, with no effect. -/
theorem State.read_sound (a : Word) (h : s.sound a = true) : s.read a = (s.peek a, s) := by
  unfold State.sound at h
  unfold State.read State.peek
  split
  · simp_all
  · rename_i k hk
    rw [hk] at h
    simp only [Bool.and_eq_true, Bool.not_eq_true', List.contains_eq_mem, decide_eq_false_iff_not] at h
    simp [h.1, h.2]

@[simp] theorem State.read_regs (a : Word) : (s.read a).2.cpu.regs = s.cpu.regs := by
  rcases s.read_after a with h | h | h <;> simp [h]
@[simp] theorem State.read_pc (a : Word) : (s.read a).2.cpu.pc = s.cpu.pc := by
  rcases s.read_after a with h | h | h <;> simp [h]
@[simp] theorem State.read_ec (a : Word) : (s.read a).2.cpu.ec = s.cpu.ec := by
  rcases s.read_after a with h | h | h <;> simp [h]
@[simp] theorem State.read_ia (a : Word) : (s.read a).2.cpu.ia = s.cpu.ia := by
  rcases s.read_after a with h | h | h <;> simp [h]
@[simp] theorem State.read_ib (a : Word) : (s.read a).2.cpu.ib = s.cpu.ib := by
  rcases s.read_after a with h | h | h <;> simp [h]
@[simp] theorem State.read_config (a : Word) : (s.read a).2.config = s.config := by
  rcases s.read_after a with h | h | h <;> simp [h]
@[simp] theorem State.read_mem (a : Word) : (s.read a).2.mem = s.mem := by
  rcases s.read_after a with h | h | h <;> simp [h]
@[simp] theorem State.read_checkFails (a : Word) : (s.read a).2.checkFails = s.checkFails := by
  rcases s.read_after a with h | h | h <;> simp [h]
@[simp] theorem State.read_cru (a : Word) : (s.read a).2.cru = s.cru := by
  rcases s.read_after a with h | h | h <;> simp [h]
@[simp] theorem State.read_dmac (a : Word) : (s.read a).2.dmac = s.dmac := by
  rcases s.read_after a with h | h | h <;> simp [h]
@[simp] theorem State.read_panel (a : Word) : (s.read a).2.panel = s.panel := by
  rcases s.read_after a with h | h | h <;> simp [h]
@[simp] theorem State.read_running (a : Word) : (s.read a).2.running = s.running := by
  rcases s.read_after a with h | h | h <;> simp [h]
@[simp] theorem State.read_powered (a : Word) : (s.read a).2.powered = s.powered := by
  rcases s.read_after a with h | h | h <;> simp [h]
@[simp] theorem State.read_schedule (a : Word) : (s.read a).2.schedule = s.schedule := by
  rcases s.read_after a with h | h | h <;> simp [h]
@[simp] theorem State.read_mode (a : Word) : (s.read a).2.mode = s.mode := by
  rcases s.read_after a with h | h | h <;> simp [h]
@[simp] theorem State.read_reg (a : Word) (i : FileIndex) : (s.read a).2.reg i = s.reg i := by simp [State.reg]
@[simp] theorem State.read_peek (a b : Word) : (s.read a).2.peek b = s.peek b := State.peek_congr (by simp) (by simp) b

/-! ### Storing and writing -/

/-- What a store leaves at every address: the value where there is a word, every other word alone. -/
theorem State.peek_store (a v b : Word) :
    (s.store a v).peek b = if b = a && s.present a then v else s.peek b := by
  unfold State.store State.present
  cases hp : placeOf a with
  | register i =>
    simp only [Bool.and_true, decide_eq_true_eq]
    rw [State.peek_setReg, ← regAddress_of_placeOf hp]
  | memory k =>
    have hk := toNat_of_placeOf hp
    by_cases hi : s.installed k = true
    · simp only [hi, if_true, Bool.and_true, decide_eq_true_eq]
      by_cases hb : b = a
      · subst hb
        rw [State.peek_memory _ hp]
        simp [Memory.readWord_writeWord]
      · simp only [hb, if_false]
        cases hq : placeOf b with
        | register j => rw [regAddress_of_placeOf hq]; simp [State.reg]
        | memory l =>
          have hl := toNat_of_placeOf hq
          have hne : l ≠ k := fun e => hb (BitVec.eq_of_toNat_eq (by omega))
          rw [State.peek_memory _ hq, State.peek_memory _ hq]
          simp [Memory.readWord_writeWord, hne]
    · simp [hi]

theorem State.peek_store_ne (a v b : Word) (h : b ≠ a) : (s.store a v).peek b = s.peek b := by
  simp [State.peek_store, h]

@[simp] theorem State.store_pc (a v : Word) : (s.store a v).cpu.pc = s.cpu.pc := by
  unfold State.store; split
  · rfl
  · split <;> rfl
@[simp] theorem State.store_ec (a v : Word) : (s.store a v).cpu.ec = s.cpu.ec := by
  unfold State.store; split
  · rfl
  · split <;> rfl
@[simp] theorem State.store_st (a v : Word) : (s.store a v).cpu.st = s.cpu.st := by
  unfold State.store; split
  · rfl
  · split <;> rfl
@[simp] theorem State.store_ia (a v : Word) : (s.store a v).cpu.ia = s.cpu.ia := by
  unfold State.store; split
  · rfl
  · split <;> rfl
@[simp] theorem State.store_ib (a v : Word) : (s.store a v).cpu.ib = s.cpu.ib := by
  unfold State.store; split
  · rfl
  · split <;> rfl
@[simp] theorem State.store_internalPending (a v : Word) : (s.store a v).cpu.internalPending = s.cpu.internalPending := by
  unfold State.store; split
  · rfl
  · split <;> rfl
@[simp] theorem State.store_config (a v : Word) : (s.store a v).config = s.config := by
  unfold State.store; split
  · rfl
  · split <;> rfl
@[simp] theorem State.store_cru (a v : Word) : (s.store a v).cru = s.cru := by
  unfold State.store; split
  · rfl
  · split <;> rfl
@[simp] theorem State.store_dmac (a v : Word) : (s.store a v).dmac = s.dmac := by
  unfold State.store; split
  · rfl
  · split <;> rfl
@[simp] theorem State.store_panel (a v : Word) : (s.store a v).panel = s.panel := by
  unfold State.store; split
  · rfl
  · split <;> rfl
@[simp] theorem State.store_running (a v : Word) : (s.store a v).running = s.running := by
  unfold State.store; split
  · rfl
  · split <;> rfl
@[simp] theorem State.store_powered (a v : Word) : (s.store a v).powered = s.powered := by
  unfold State.store; split
  · rfl
  · split <;> rfl
@[simp] theorem State.store_schedule (a v : Word) : (s.store a v).schedule = s.schedule := by
  unfold State.store; split
  · rfl
  · split <;> rfl
@[simp] theorem State.store_freeCount (a v : Word) : (s.store a v).freeCount = s.freeCount := by
  unfold State.store; split
  · rfl
  · split <;> rfl
@[simp] theorem State.store_mode (a v : Word) : (s.store a v).mode = s.mode := by simp [State.mode]

/-- Everything a write can do: a blocked one raises MV, any other stores. -/
theorem State.write_cases (a v : Word) :
    (s.blocked a = true ∧ s.write a v = s.raiseInternal .mv) ∨ (s.blocked a = false ∧ s.write a v = s.store a v) := by
  unfold State.write
  cases h : s.blocked a <;> simp

theorem State.write_storable (a v : Word) (h : s.storable a = true) : s.write a v = s.store a v := by
  simp_all [State.storable, State.write]

/-- A write to a storable word. -/
theorem State.peek_write_storable (a v b : Word) (h : s.storable a = true) :
    (s.write a v).peek b = if b = a then v else s.peek b := by
  rw [State.write_storable _ _ _ h, State.peek_store]
  simp_all [State.storable]

theorem State.peek_write_ne (a v b : Word) (h : b ≠ a) : (s.write a v).peek b = s.peek b := by
  rcases s.write_cases a v with ⟨-, e⟩ | ⟨-, e⟩
  · simp [e]
  · rw [e, State.peek_store_ne _ _ _ _ h]

@[simp] theorem State.write_pc (a v : Word) : (s.write a v).cpu.pc = s.cpu.pc := by
  rcases s.write_cases a v with ⟨-, e⟩ | ⟨-, e⟩ <;> simp [e]
@[simp] theorem State.write_ec (a v : Word) : (s.write a v).cpu.ec = s.cpu.ec := by
  rcases s.write_cases a v with ⟨-, e⟩ | ⟨-, e⟩ <;> simp [e]
@[simp] theorem State.write_ia (a v : Word) : (s.write a v).cpu.ia = s.cpu.ia := by
  rcases s.write_cases a v with ⟨-, e⟩ | ⟨-, e⟩ <;> simp [e]
@[simp] theorem State.write_ib (a v : Word) : (s.write a v).cpu.ib = s.cpu.ib := by
  rcases s.write_cases a v with ⟨-, e⟩ | ⟨-, e⟩ <;> simp [e]
@[simp] theorem State.write_config (a v : Word) : (s.write a v).config = s.config := by
  rcases s.write_cases a v with ⟨-, e⟩ | ⟨-, e⟩ <;> simp [e]
@[simp] theorem State.write_cru (a v : Word) : (s.write a v).cru = s.cru := by
  rcases s.write_cases a v with ⟨-, e⟩ | ⟨-, e⟩ <;> simp [e]
@[simp] theorem State.write_dmac (a v : Word) : (s.write a v).dmac = s.dmac := by
  rcases s.write_cases a v with ⟨-, e⟩ | ⟨-, e⟩ <;> simp [e]
@[simp] theorem State.write_panel (a v : Word) : (s.write a v).panel = s.panel := by
  rcases s.write_cases a v with ⟨-, e⟩ | ⟨-, e⟩ <;> simp [e]
@[simp] theorem State.write_running (a v : Word) : (s.write a v).running = s.running := by
  rcases s.write_cases a v with ⟨-, e⟩ | ⟨-, e⟩ <;> simp [e]
@[simp] theorem State.write_powered (a v : Word) : (s.write a v).powered = s.powered := by
  rcases s.write_cases a v with ⟨-, e⟩ | ⟨-, e⟩ <;> simp [e]
@[simp] theorem State.write_schedule (a v : Word) : (s.write a v).schedule = s.schedule := by
  rcases s.write_cases a v with ⟨-, e⟩ | ⟨-, e⟩ <;> simp [e]
@[simp] theorem State.write_freeCount (a v : Word) : (s.write a v).freeCount = s.freeCount := by
  rcases s.write_cases a v with ⟨-, e⟩ | ⟨-, e⟩ <;> simp [e]
@[simp] theorem State.write_mode (a v : Word) : (s.write a v).mode = s.mode := by
  rcases s.write_cases a v with ⟨-, e⟩ | ⟨-, e⟩ <;> simp [e]

/-- No write makes check bits bad. -/
theorem State.store_checks (a v : Word) (k : Nat) (h : k ∈ (s.store a v).checkFails) : k ∈ s.checkFails := by
  unfold State.store at h
  split at h
  · exact h
  · split at h
    · exact (List.mem_filter.1 h).1
    · exact h

theorem State.write_checks (a v : Word) (k : Nat) (h : k ∈ (s.write a v).checkFails) : k ∈ s.checkFails := by
  rcases s.write_cases a v with ⟨-, e⟩ | ⟨-, e⟩ <;> rw [e] at h
  · simpa using h
  · exact s.store_checks a v k h

/-! ### Protection -/

@[simp] theorem filter_outsideWords_nil (l : List Nat) : l.filter (outsideWords []) = l :=
  List.filter_eq_self.2 (fun _ _ => rfl)

/-- A store changes the check bits of no word outside a list that holds its address. -/
theorem State.store_failsOutside (a v : Word) (l : List Word) (h : a ∈ l) :
    (s.store a v).checkFails.filter (outsideWords l) = s.checkFails.filter (outsideWords l) := by
  unfold State.store
  split
  · rfl
  · rename_i k hk
    split
    · have e := toNat_of_placeOf hk
      show (s.checkFails.filter (fun b => b != k)).filter (outsideWords l) = _
      rw [List.filter_filter]
      apply List.filter_congr
      intro b _
      by_cases hb : b = k
      · have : outsideWords l b = false := by
          simp only [outsideWords, List.all_eq_false]
          exact ⟨a, h, by simp [hb, e]⟩
        simp [this]
      · simp [hb]
    · rfl

theorem State.write_failsOutside (a v : Word) (l : List Word) (h : a ∈ l) :
    (s.write a v).checkFails.filter (outsideWords l) = s.checkFails.filter (outsideWords l) := by
  rcases s.write_cases a v with ⟨-, e⟩ | ⟨-, e⟩ <;> rw [e]
  · simp
  · exact s.store_failsOutside a v l h

/-- No register, interrupt location or status word is ever protected (R70). -/
theorem State.not_blocked_of_low (a : Word) (h : 0x80 ≤ a.toNat) (h' : a.toNat ≤ 0xA7) : s.blocked a = false := by
  simp [State.blocked, State.isProtected, h, h']

theorem State.not_blocked_regAddress (i : FileIndex) : s.blocked (regAddress i) = false := by
  apply State.not_blocked_of_low
  · revert i; decide
  · revert i; decide

/-- The second half of a register pair is never protected (R375). -/
theorem State.not_blocked_pair (i : FileIndex) : s.blocked (regAddress i + 1#16) = false := by
  apply State.not_blocked_of_low
  · revert i; decide
  · revert i; decide

/-- Protection depends on the installation and the override switch only. -/
theorem State.blocked_congr {s t : State} (hc : t.config = s.config) (hp : t.panel = s.panel) (a : Word) :
    t.blocked a = s.blocked a := by
  simp [State.blocked, State.isProtected, hc, hp]

end Sys2Proof.Machine
end

