-- ==== Sys2Proof/Laws/Local.lean ====
section
/-! SUPPORT. What every operation an instruction is made of leaves alone, said once for each: the installation, the panel, the
run state, the devices' inputs, the status bits outside those it writes, the words a protection guards, and the form of
memory. Proofs about all instructions compose these and unfold nothing. -/

namespace Sys2Proof.Machine

/-- `t` comes from `s` by operations of the processor that write no status bit outside `flags` but `MP` and `MV`. -/
structure Local (s t : State) (flags : Word) : Prop where
  config : t.config = s.config
  panel : t.panel = s.panel
  running : t.running = s.running
  powered : t.powered = s.powered
  schedule : t.schedule = s.schedule
  ia : t.cpu.ia = s.cpu.ia
  inputs : t.cru.inputs = s.cru.inputs
  interruptLine : t.cru.interruptLine = s.cru.interruptLine
  intStatus : t.dmac.intStatus = s.dmac.intStatus
  controllers : t.dmac.status = s.dmac.status
  status : StatusStep s.cpu.st t.cpu.st flags
  guarded : ∀ a, s.blocked a = true → t.peek a = s.peek a
  memory : s.memoryLegal → t.memoryLegal
  checks : s.checksLegal → t.checksLegal
  lines : s.linesLegal → t.linesLegal

/-! ### `StatusStep` -/

theorem StatusStep.refl (x flags : Word) : StatusStep x x flags := fun _ _ => .inr (.inl rfl)

theorem StatusStep.of_eq {x y : Word} (flags : Word) (h : y = x) : StatusStep x y flags := h ▸ StatusStep.refl y flags

theorem StatusStep.trans {x y z flags : Word} (h1 : StatusStep x y flags) (h2 : StatusStep y z flags) :
    StatusStep x z flags := by
  intro j hj
  rcases h2 j hj with h | h | h
  · exact .inl h
  · rcases h1 j hj with g | g | g
    · exact .inl g
    · exact .inr (.inl (h.trans g))
    · exact .inr (.inr ⟨g.1, h.trans g.2⟩)
  · exact .inr (.inr h)

theorem StatusStep.mono {x y f g : Word} (h : StatusStep x y f) (hfg : ∀ j, j < 16 → bit f j = true → bit g j = true) :
    StatusStep x y g := by
  intro j hj
  rcases h j hj with h | h
  · exact .inl (hfg j hj h)
  · exact .inr h

theorem StatusStep.setBit (x : Word) (i : Nat) (b : Bool) (flags : Word) (hi : i < 16) (hf : bit flags i = true) :
    StatusStep x (Machine.setBit x i b) flags := by
  intro j hj
  rw [bit_setBit _ _ _ _ hi hj]
  split
  · rename_i h; exact .inl (h ▸ hf)
  · exact .inr (.inl rfl)

theorem StatusStep.withComparison (x : Word) (c : Comparison) (flags : Word) (h10 : bit flags bitGT = true)
    (h11 : bit flags bitEQ = true) (h12 : bit flags bitLT = true) : StatusStep x (Machine.withComparison x c) flags :=
  ((StatusStep.setBit _ _ _ _ (by decide) h10).trans (StatusStep.setBit _ _ _ _ (by decide) h11)).trans
    (StatusStep.setBit _ _ _ _ (by decide) h12)

theorem StatusStep.cause (x flags : Word) (c : Cause) (h : c = .mp ∨ c = .mv) :
    StatusStep x (Machine.setBit x (causeBit c) true) flags := by
  intro j hj
  rw [bit_setBit _ _ _ _ (causeBit_lt c) hj]
  split
  · rename_i hc
    refine .inr (.inr ⟨?_, rfl⟩)
    rcases h with rfl | rfl
    · exact .inl hc.symm
    · exact .inr hc.symm
  · exact .inr (.inl rfl)

/-! ### The form of memory -/

theorem memoryLegal_congr {s t : State} (hm : t.mem = s.mem) (hc : t.config = s.config) (h : s.memoryLegal) :
    t.memoryLegal := by
  simpa [State.memoryLegal, State.installed, hm, hc] using h

theorem checksLegal_congr {s t : State} (hm : t.checkFails = s.checkFails) (hc : t.config = s.config) (h : s.checksLegal) :
    t.checksLegal := by
  simpa [State.checksLegal, State.installed, hm, hc] using h

theorem linesLegal_congr {s t : State} (h : t.cru = s.cru) (hs : s.linesLegal) : t.linesLegal := by
  simpa [State.linesLegal, h] using hs

/-- Setting a line keeps the list rising and of lines only. -/
theorem setLine_legal (l : CruLines) (line : CruLine) (b : Bool) (h : l.Pairwise (· < ·) ∧ ∀ k ∈ l, k < 4096) :
    (setLine l line b).Pairwise (· < ·) ∧ ∀ k ∈ setLine l line b, k < 4096 := by
  unfold setLine
  split
  · refine ⟨pairwise_insertAddress _ _ h.1, fun k hk => ?_⟩
    rcases (mem_insertAddress _ _ _).1 hk with rfl | hk
    · exact line.isLt
    · exact h.2 k hk
  · exact ⟨h.1.filter _, fun k hk => h.2 k (List.mem_filter.1 hk).1⟩

theorem linesAt_legal (l : List CruLine) : (linesAt l).Pairwise (· < ·) ∧ ∀ k ∈ linesAt l, k < 4096 := by
  have key : ∀ (l : List CruLine) (m : CruLines), (m.Pairwise (· < ·) ∧ ∀ k ∈ m, k < 4096) →
      (l.foldl (fun m a => setLine m a true) m).Pairwise (· < ·) ∧
      ∀ k ∈ l.foldl (fun m a => setLine m a true) m, k < 4096 := by
    intro l
    induction l with
    | nil => intro m h; exact h
    | cons a l ih => intro m h; exact ih _ (setLine_legal _ _ _ h)
  exact key l [] (by simp)

variable {s t u : State} {flags : Word}

/-! ### Composition -/

theorem Local.refl (s : State) (flags : Word) : Local s s flags where
  config := rfl
  panel := rfl
  running := rfl
  powered := rfl
  schedule := rfl
  ia := rfl
  inputs := rfl
  interruptLine := rfl
  intStatus := rfl
  controllers := rfl
  status := StatusStep.refl _ _
  guarded := fun _ _ => rfl
  memory := id
  checks := id
  lines := id

theorem Local.trans (h1 : Local s t flags) (h2 : Local t u flags) : Local s u flags where
  config := h2.config.trans h1.config
  panel := h2.panel.trans h1.panel
  running := h2.running.trans h1.running
  powered := h2.powered.trans h1.powered
  schedule := h2.schedule.trans h1.schedule
  ia := h2.ia.trans h1.ia
  inputs := h2.inputs.trans h1.inputs
  interruptLine := h2.interruptLine.trans h1.interruptLine
  intStatus := h2.intStatus.trans h1.intStatus
  controllers := h2.controllers.trans h1.controllers
  status := h1.status.trans h2.status
  guarded := fun a ha =>
    (h2.guarded a (by rw [State.blocked_congr h1.config h1.panel]; exact ha)).trans (h1.guarded a ha)
  memory := fun h => h2.memory (h1.memory h)
  checks := fun h => h2.checks (h1.checks h)
  lines := fun h => h2.lines (h1.lines h)

/-- The mode is kept by operations that do not write `MI`. -/
theorem Local.mode (h : Local s t flags) (hf : bit flags bitMI = false) : t.mode = s.mode := by
  apply modeOf_congr
  rcases h.status bitMI (by decide) with h | h | h
  · rw [hf] at h; simp at h
  · exact h
  · rcases h.1 with e | e <;> exact absurd e (by decide)

/-- An update that touches neither the registers nor memory, and nothing else `Local` names. -/
theorem Local.quiet (hc : t.config = s.config) (hp : t.panel = s.panel) (hr : t.running = s.running)
    (hw : t.powered = s.powered) (hs : t.schedule = s.schedule) (hi : t.cpu.ia = s.cpu.ia) (hcru : t.cru = s.cru)
    (hd : t.dmac = s.dmac) (hst : StatusStep s.cpu.st t.cpu.st flags) (hregs : t.cpu.regs = s.cpu.regs)
    (hm : t.mem = s.mem) (hf : t.checkFails = s.checkFails) : Local s t flags where
  config := hc
  panel := hp
  running := hr
  powered := hw
  schedule := hs
  ia := hi
  inputs := by rw [hcru]
  interruptLine := by rw [hcru]
  intStatus := by rw [hd]
  controllers := by rw [hd]
  status := hst
  guarded := fun a _ => State.peek_congr hregs hm a
  memory := memoryLegal_congr hm hc
  checks := checksLegal_congr hf hc
  lines := linesLegal_congr hcru

/-! ### One lemma for each operation -/

variable (s) (flags)

theorem local_setIb (v : Word) : Local s (s.setIb v) flags := by apply Local.quiet <;> first | rfl | exact StatusStep.refl _ _
theorem local_setPc (v : Word) : Local s (s.setPc v) flags := by apply Local.quiet <;> first | rfl | exact StatusStep.refl _ _
theorem local_setEc (v : Word) : Local s (s.setEc v) flags := by apply Local.quiet <;> first | rfl | exact StatusStep.refl _ _
theorem local_useFree : Local s s.useFree flags := by apply Local.quiet <;> first | rfl | exact StatusStep.refl _ _
theorem local_setPending (b : Bool) : Local s (s.setPending b) flags := by
  apply Local.quiet <;> first | rfl | exact StatusStep.refl _ _

theorem local_setLcOf (m : Mode) (v : Word) : Local s (s.setLcOf m v) flags := by
  cases m
  · exact local_setPc _ _ _
  · exact local_setEc _ _ _

theorem local_setLc (v : Word) : Local s (s.setLc v) flags := local_setLcOf _ _ _ _

theorem local_setSt (v : Word) (h : StatusStep s.cpu.st v flags) : Local s (s.setSt v) flags := by
  apply Local.quiet <;> first | rfl | exact h

theorem local_setMode (m : Mode) (h : bit flags bitMI = true) : Local s (s.setMode m) flags :=
  local_setSt _ _ _ (StatusStep.setBit _ _ _ _ (by decide) h)

theorem local_setOverflow (b : Bool) (h : bit flags bitOI = true) : Local s (s.setOverflow b) flags :=
  local_setSt _ _ _ (StatusStep.setBit _ _ _ _ (by decide) h)

theorem local_setCarry (b : Bool) (h : bit flags bitCO = true) : Local s (s.setCarry b) flags :=
  local_setSt _ _ _ (StatusStep.setBit _ _ _ _ (by decide) h)

theorem local_setComparison (c : Comparison) (h10 : bit flags bitGT = true) (h11 : bit flags bitEQ = true)
    (h12 : bit flags bitLT = true) : Local s (s.setComparison c) flags :=
  local_setSt _ _ _ (StatusStep.withComparison _ _ _ h10 h11 h12)

theorem local_setCB (v : Word) (h10 : bit flags bitGT = true) (h11 : bit flags bitEQ = true)
    (h12 : bit flags bitLT = true) : Local s (s.setCB v) flags :=
  local_setComparison _ _ _ h10 h11 h12

theorem local_raiseInternal (c : Cause) (h : c = .mp ∨ c = .mv) : Local s (s.raiseInternal c) flags := by
  apply Local.quiet <;> first | exact State.raiseInternal_st _ _ ▸ StatusStep.cause _ _ _ h | simp

theorem local_setReg (i : FileIndex) (v : Word) : Local s (s.setReg i v) flags where
  config := rfl
  panel := rfl
  running := rfl
  powered := rfl
  schedule := rfl
  ia := rfl
  inputs := rfl
  interruptLine := rfl
  intStatus := rfl
  controllers := rfl
  status := StatusStep.refl _ _
  guarded := by
    intro a ha
    rw [State.peek_setReg, if_neg]
    rintro rfl
    simp [State.not_blocked_regAddress] at ha
  memory := memoryLegal_congr rfl rfl
  checks := checksLegal_congr rfl rfl
  lines := linesLegal_congr rfl

/-- A store keeps the form of memory and of the list of bad words. -/
theorem memoryLegal_store (a v : Word) (h : s.memoryLegal) : (s.store a v).memoryLegal := by
  unfold State.store
  split
  · exact memoryLegal_congr rfl rfl h
  · rename_i k hk
    split
    · rename_i hi
      have hw := inWindow_of_placeOf hk
      refine ⟨Memory.wf_writeWord _ _ _ h.1, ?_⟩
      have hc : (2 * k + 1) / 2 = k := by omega
      exact Memory.onlyCells_writeWord s.mem k v (fun c => s.installed (c / 2) = true ∧ inWindow (c / 2) = false) h.2
        (by simpa using ⟨hi, hw⟩) (by rw [hc]; exact ⟨hi, hw⟩)
    · exact h

theorem checksLegal_store (a v : Word) (h : s.checksLegal) : (s.store a v).checksLegal := by
  unfold State.store
  split
  · exact checksLegal_congr rfl rfl h
  · split
    · refine ⟨h.1.filter _, ?_⟩
      intro k hk
      exact h.2 k (List.mem_filter.1 hk).1
    · exact h

theorem local_store (a v : Word) (h : s.blocked a = false) : Local s (s.store a v) flags where
  config := by simp
  panel := by simp
  running := by simp
  powered := by simp
  schedule := by simp
  ia := by simp
  inputs := by simp
  interruptLine := by simp
  intStatus := by simp
  controllers := by simp
  status := StatusStep.of_eq _ (by simp)
  guarded := by
    intro b hb
    apply State.peek_store_ne
    rintro rfl
    simp [h] at hb
  memory := memoryLegal_store s a v
  checks := checksLegal_store s a v
  lines := linesLegal_congr (by simp)

theorem local_write (a v : Word) : Local s (s.write a v) flags := by
  rcases s.write_cases a v with ⟨-, e⟩ | ⟨hb, e⟩
  · rw [e]; exact local_raiseInternal _ _ _ (.inr rfl)
  · rw [e]; exact local_store _ _ _ _ hb

theorem local_write2 (a : Word) (v : DWord) : Local s (s.write2 a v) flags :=
  (local_write _ _ _ _).trans (local_write _ _ _ _)

theorem local_read (a : Word) : Local s (s.read a).2 flags := by
  rcases s.read_after a with h | h | h <;> rw [h]
  · exact Local.refl _ _
  · exact local_useFree _ _
  · exact (local_useFree _ _).trans (local_raiseInternal _ _ _ (.inl rfl))

theorem local_read2 (a : Word) : Local s (s.read2 a).2 flags := (local_read _ _ _).trans (local_read _ _ _)

theorem local_readPair (i : FileIndex) : Local s (s.readPair i).2 flags := local_read _ _ _

theorem local_writePair (i : FileIndex) (v : DWord) : Local s (s.writePair i v) flags :=
  (local_setReg _ _ _ _).trans (local_write _ _ _ _)

theorem local_cruIn (line : CruLine) : Local s (s.cruIn line).2 flags := by
  unfold State.cruIn
  split
  · exact Local.refl _ _
  · exact local_useFree _ _

theorem local_cruOut (line : CruLine) (b : Bool) : Local s (s.cruOut line b) flags := by
  unfold State.cruOut
  split
  · constructor <;>
      first | rfl | exact StatusStep.refl _ _ | exact fun _ _ => rfl | exact id | exact fun h => ⟨h.1, setLine_legal _ _ _ h.2⟩
  · exact Local.refl _ _

theorem local_putField (base : CruLine) (w : Word) (k : Nat) : Local s (s.putField base w k) flags := by
  induction k with
  | zero => exact Local.refl _ _
  | succ k ih => exact ih.trans (local_cruOut _ _ _ _)

theorem local_getField (base : CruLine) (k : Nat) : Local s (s.getField base k).2 flags := by
  induction k with
  | zero => exact Local.refl _ _
  | succ k ih => exact ih.trans (local_cruIn _ _ _)

theorem local_storeStatusBlock (ea c : Word) : Local s (s.storeStatusBlock ea c) flags :=
  (local_write _ _ _ _).trans (local_write _ _ _ _)

theorem local_effectiveAddress (pre : Bool) (adr : Address) : Local s (s.effectiveAddress pre adr).after flags := by
  cases adr with
  | direct n => exact local_setIb _ _ _
  | indirect n => exact (local_read _ _ _).trans (local_setIb _ _ _)
  | indexed xr n => exact local_setIb _ _ _
  | indirectIndexed xr n =>
    cases pre
    · exact (local_read _ _ _).trans (local_setIb _ _ _)
    · exact (local_read _ _ _).trans (local_setIb _ _ _)

theorem local_form (adr : Address) : Local s (s.form adr).after flags := local_effectiveAddress _ _ _ _
theorem local_formPre (adr : Address) : Local s (s.formPre adr).after flags := local_effectiveAddress _ _ _ _
theorem local_operand (adr : Address) : Local s (s.operand adr).after flags :=
  (local_form _ _ _).trans (local_read _ _ _)
theorem local_operandPre (adr : Address) : Local s (s.operandPre adr).after flags :=
  (local_formPre _ _ _).trans (local_read _ _ _)
theorem local_operand2 (adr : Address) : Local s (s.operand2 adr).after flags :=
  (local_form _ _ _).trans (local_read2 _ _ _)

theorem local_switchMode (h : bit flags bitMI = true) : Local s s.switchMode flags :=
  (local_setLc _ _ _).trans (local_setMode _ _ _ h)

theorem local_switchUnless (f v1 : Bool) (h : bit flags bitMI = true) : Local s (s.switchUnless f v1) flags := by
  unfold State.switchUnless
  split
  · exact Local.refl _ _
  · exact local_switchMode _ _ h

theorem local_branchUnless (f v1 : Bool) (target : Word) : Local s (s.branchUnless f v1 target) flags := by
  unfold State.branchUnless
  split
  · exact Local.refl _ _
  · exact local_setLc _ _ _

theorem local_skip (c : Comparison) : Local s (s.skip c) flags := by
  cases c
  · exact local_setLc _ _ _
  · exact local_setLc _ _ _
  · exact Local.refl _ _

theorem local_freeCB (h10 : bit flags bitGT = true) (h11 : bit flags bitEQ = true) (h12 : bit flags bitLT = true) :
    Local s s.freeCB flags := by
  refine (local_useFree _ _).trans (local_setSt _ _ _ ?_)
  exact ((StatusStep.setBit _ _ _ _ (by decide) h10).trans (StatusStep.setBit _ _ _ _ (by decide) h11)).trans
    (StatusStep.setBit _ _ _ _ (by decide) h12)

theorem local_putQuotient (i : FileIndex) (q : Option Quotient) (hoi : bit flags bitOI = true)
    (h10 : bit flags bitGT = true) (h11 : bit flags bitEQ = true) (h12 : bit flags bitLT = true) :
    Local s (s.putQuotient i q) flags := by
  cases q with
  | some r => exact ((local_writePair _ _ _ _).trans (local_setOverflow _ _ _ hoi)).trans (local_setCB _ _ _ h10 h11 h12)
  | none =>
    exact ((((local_setOverflow _ _ _ hoi).trans (local_useFree _ _)).trans (local_useFree _ _)).trans
      (local_writePair _ _ _ _)).trans (local_freeCB _ _ h10 h11 h12)

end Sys2Proof.Machine
end

