-- ==== Sys2Proof/Laws/Operands.lean ====
section
/-! SUPPORT. Operands that read without an error: the effective address is the one R110 writes, and forming it changes `IB`
only. -/

namespace Sys2Proof.Machine

variable (s : State)

@[simp] theorem State.active_setIb (v : Word) (r : RegNo) : (s.setIb v).active r = s.active r := rfl
@[simp] theorem State.lc_setIb (v : Word) : (s.setIb v).lc = s.lc := rfl
@[simp] theorem State.lcOf_setIb (m : Mode) (v : Word) : (s.setIb v).lcOf m = s.lcOf m := by cases m <;> rfl
@[simp] theorem State.bias_setIb (v : Word) (rq : Bool) (m : Mode) : (s.setIb v).bias rq m = s.bias rq m := rfl
@[simp] theorem State.sound_setIb (v a : Word) : (s.setIb v).sound a = s.sound a := rfl
@[simp] theorem State.blocked_setIb (v a : Word) : (s.setIb v).blocked a = s.blocked a := rfl
@[simp] theorem State.present_setIb (v a : Word) : (s.setIb v).present a = s.present a := rfl
@[simp] theorem State.storable_setIb (v a : Word) : (s.setIb v).storable a = s.storable a := rfl

/-- Address formation without an error. -/
theorem State.effectiveAddress_sound (pre : Bool) (adr : Address) (h : s.eaSound pre adr = true) :
    s.effectiveAddress pre adr = { ea := s.ea pre adr, after := s.setIb (s.ea pre adr) } := by
  cases adr with
  | direct n => rfl
  | indirect n =>
    have hr := s.read_sound n h
    simp [State.effectiveAddress, formed, State.ea, hr]
  | indexed xr n => rfl
  | indirectIndexed xr n =>
    cases pre
    · have hr := s.read_sound n h
      simp [State.effectiveAddress, formed, State.ea, hr]
    · have hr := s.read_sound (n + s.active xr) h
      simp [State.effectiveAddress, formed, State.ea, hr]

theorem State.form_sound (adr : Address) (h : s.eaSound s.preindex adr = true) :
    s.form adr = { ea := s.ea s.preindex adr, after := s.setIb (s.ea s.preindex adr) } :=
  s.effectiveAddress_sound _ _ h

theorem State.formPre_sound (adr : Address) (h : s.eaSound true adr = true) :
    s.formPre adr = { ea := s.ea true adr, after := s.setIb (s.ea true adr) } :=
  s.effectiveAddress_sound _ _ h

theorem State.operand_sound (adr : Address) (h : s.eaSound s.preindex adr = true)
    (h' : s.sound (s.ea s.preindex adr) = true) :
    s.operand adr =
      { ea := s.ea s.preindex adr, eo := s.peek (s.ea s.preindex adr), after := s.setIb (s.ea s.preindex adr) } := by
  simp [State.operand, Formed.operand, s.form_sound adr h, State.read_sound, h']

theorem State.operandPre_sound (adr : Address) (h : s.eaSound true adr = true) (h' : s.sound (s.ea true adr) = true) :
    s.operandPre adr =
      { ea := s.ea true adr, eo := s.peek (s.ea true adr), after := s.setIb (s.ea true adr) } := by
  simp [State.operandPre, Formed.operand, s.formPre_sound adr h, State.read_sound, h']

theorem State.operand2_sound (adr : Address) (h : s.eaSound s.preindex adr = true)
    (h' : s.sound (s.ea s.preindex adr) = true) (h'' : s.sound (s.ea s.preindex adr + 1#16) = true) :
    s.operand2 adr =
      { ea := s.ea s.preindex adr
        eo := joinWords (s.peek (s.ea s.preindex adr)) (s.peek (s.ea s.preindex adr + 1#16))
        after := s.setIb (s.ea s.preindex adr) } := by
  simp [State.operand2, Formed.operand2, State.read2, s.form_sound adr h, State.read_sound, h', h'']

theorem State.readPair_sound (i : FileIndex) (h : s.sound (regAddress i + 1#16) = true) :
    s.readPair i = (joinWords (s.reg i) (s.peek (regAddress i + 1#16)), s) := by
  simp [State.readPair, State.read_sound, h]

/-! ### What the predicates of Safety.lean say of the reads -/

theorem State.operandReads_iff (adr : Address) :
    s.operandReads adr = true ↔ s.eaSound s.preindex adr = true ∧ s.sound (s.ea s.preindex adr) = true := by
  simp [State.operandReads, State.addressReads, State.eff]

theorem State.operandReads2_iff (adr : Address) :
    s.operandReads2 adr = true ↔ s.eaSound s.preindex adr = true ∧ s.sound (s.ea s.preindex adr) = true ∧
      s.sound (s.ea s.preindex adr + 1#16) = true := by
  simp [State.operandReads2, State.operandReads, State.addressReads, State.eff, and_assoc]

theorem State.operandReadsPre_iff (adr : Address) :
    s.operandReadsPre adr = true ↔ s.eaSound true adr = true ∧ s.sound (s.ea true adr) = true := by
  simp [State.operandReadsPre]

@[simp] theorem highWord_joinWords (hi lo : Word) : highWord (joinWords hi lo) = hi := by
  apply BitVec.eq_of_getLsbD_eq
  intro i h
  have e : (joinWords hi lo).getLsbD (16 + i) = _ := BitVec.getLsbD_append
  simp [highWord, e, h]

@[simp] theorem lowWord_joinWords (hi lo : Word) : lowWord (joinWords hi lo) = lo := by
  apply BitVec.eq_of_getLsbD_eq
  intro i h
  have e : (joinWords hi lo).getLsbD i = _ := BitVec.getLsbD_append
  simp [lowWord, e, h]

theorem word_ne_succ (a : Word) : a ≠ a + 1#16 := by
  intro h
  have := congrArg BitVec.toNat h
  simp only [BitVec.toNat_add, BitVec.toNat_ofNat] at this
  omega

end Sys2Proof.Machine
end

