-- ==== Sys2Proof/Laws/Results.lean ====
section
/-! SUPPORT. What each shared way of writing a result does, said once: the value, the indicators, and the frame; and the shared
arithmetic in the terms of Safety.lean. -/

namespace Sys2Proof.Machine

/-! ### Status words and masks -/

theorem comparisonIs_withComparison (t : State) (st : Word) (c : Comparison) (h : t.cpu.st = withComparison st c) :
    t.comparisonIs c := by
  refine ⟨?_, ?_, ?_⟩ <;> rw [h, bit_withComparison _ _ _ (by decide)] <;> simp [bitGT, bitEQ, bitLT]

theorem withComparison_masked (st m : Word) (c : Comparison) (h : maskCB &&& m = maskCB) :
    withComparison st c &&& ~~~m = st &&& ~~~m := by
  have hb : ∀ j, j < 16 → bit m j = false → j ≠ bitGT ∧ j ≠ bitEQ ∧ j ≠ bitLT := by
    intro j hj hm
    refine ⟨?_, ?_, ?_⟩ <;> rintro rfl
    · have := congrArg (fun w => bit w bitGT) h
      simp only [bit, BitVec.getMsbD_and] at this hm
      rw [hm] at this; revert this; decide
    · have := congrArg (fun w => bit w bitEQ) h
      simp only [bit, BitVec.getMsbD_and] at this hm
      rw [hm] at this; revert this; decide
    · have := congrArg (fun w => bit w bitLT) h
      simp only [bit, BitVec.getMsbD_and] at this hm
      rw [hm] at this; revert this; decide
  apply masked_ext
  intro j hj hm
  obtain ⟨h1, h2, h3⟩ := hb j hj hm
  rw [bit_withComparison _ _ _ hj, if_neg h1, if_neg h2, if_neg h3]

theorem setBit_masked (st m : Word) (i : Nat) (b : Bool) (hi : i < 16) (h : bit m i = true) :
    setBit st i b &&& ~~~m = st &&& ~~~m := by
  apply masked_ext
  intro j hj hm
  rw [bit_setBit _ _ _ _ hi hj, if_neg]
  rintro rfl
  simp [h] at hm

/-! ### Writes that are not blocked -/

variable (s : State)

theorem State.write_storable_st (a v : Word) (h : s.storable a = true) : (s.write a v).cpu.st = s.cpu.st := by
  rw [s.write_storable a v h]; simp

theorem State.write_storable_internalPending (a v : Word) (h : s.storable a = true) :
    (s.write a v).cpu.internalPending = s.cpu.internalPending := by
  rw [s.write_storable a v h]; simp

@[simp] theorem State.storable_write (a v b : Word) : (s.write a v).storable b = s.storable b := by
  simp [State.storable, State.present, State.installed, State.blocked, State.isProtected]

@[simp] theorem State.storable_setReg (i : FileIndex) (v b : Word) : (s.setReg i v).storable b = s.storable b := rfl

theorem State.write2_failsOutside (a : Word) (v : DWord) (l : List Word) (h : a ∈ l) (h2 : a + 1#16 ∈ l) :
    (s.write2 a v).checkFails.filter (outsideWords l) = s.checkFails.filter (outsideWords l) :=
  (State.write_failsOutside _ _ _ l h2).trans (s.write_failsOutside _ _ l h)

theorem State.write2_checks (a : Word) (v : DWord) (k : Nat) (h : k ∈ (s.write2 a v).checkFails) : k ∈ s.checkFails :=
  s.write_checks a (highWord v) k (State.write_checks _ _ _ k h)

/-- Both words of a double-length write that nothing blocks. -/
theorem State.write2_storable (a : Word) (v : DWord) (h : s.storable a = true) (h2 : s.storable (a + 1#16) = true) :
    (s.write2 a v).peek a = highWord v ∧ (s.write2 a v).peek (a + 1#16) = lowWord v ∧
    (∀ b, b ≠ a → b ≠ a + 1#16 → (s.write2 a v).peek b = s.peek b) ∧ (s.write2 a v).cpu.st = s.cpu.st ∧
    (s.write2 a v).cpu.internalPending = s.cpu.internalPending := by
  have h2' : (s.write a (highWord v)).storable (a + 1#16) = true := by simpa using h2
  simp only [State.write2]
  refine ⟨?_, ?_, ?_, ?_, ?_⟩
  · rw [State.peek_write_storable _ _ _ _ h2', if_neg (word_ne_succ a), State.peek_write_storable _ _ _ _ h]
    simp
  · rw [State.peek_write_storable _ _ _ _ h2']
    simp
  · intro b hb hb2
    rw [State.peek_write_ne _ _ _ _ hb2, State.peek_write_ne _ _ _ _ hb]
  · rw [State.write_storable_st _ _ _ h2', State.write_storable_st _ _ _ h]
  · rw [State.write_storable_internalPending _ _ _ h2', State.write_storable_internalPending _ _ _ h]

/-! ### Results to registers -/

theorem putsResult (e v : Word) (i : FileIndex) : PutsResult s (.next ((s.setIb e).putResult i v)) i v := by
  refine ⟨_, rfl, ?_, comparisonIs_withComparison _ _ _ rfl, ⟨rfl, rfl⟩, ⟨rfl, rfl⟩, ?_⟩
  · simp [State.putResult]
  · constructor
    · intro a ha
      have : a ≠ regAddress i := by simpa using ha
      simp [State.putResult, State.peek_setReg, this]
    · exact withComparison_masked _ _ _ (by decide)
    all_goals first | rfl | exact fun _ h => h

theorem putsSum (e : Word) (r : Sum) (i : FileIndex) :
    PutsSum s (.next ((s.setIb e).putSum i r)) i r.value r.carry r.overflow := by
  refine ⟨_, rfl, ?_, comparisonIs_withComparison _ _ _ rfl, ?_, ?_, ⟨rfl, rfl⟩, ⟨rfl, rfl⟩, ?_⟩
  · simp [State.putSum]
  · simp only [State.putSum]
    rw [State.setCB_bit _ _ _ (by decide), State.setCarry_bit _ _ _ (by decide)]
    rfl
  · simp only [State.putSum]
    rw [State.setCB_bit _ _ _ (by decide), State.setCarry_bit _ _ _ (by decide), State.setOverflow_bit _ _ _ (by decide)]
    rfl
  · constructor
    · intro a ha
      have : a ≠ regAddress i := by simpa using ha
      simp [State.putSum, State.peek_setReg, this]
    · simp only [State.putSum, State.setCB_st, State.setCarry_st, State.setOverflow_st]
      rw [withComparison_masked _ _ _ (by decide), setBit_masked _ _ _ _ (by decide) (by decide),
        setBit_masked _ _ _ _ (by decide) (by decide)]
      rfl
    all_goals first | rfl | exact fun _ h => h

theorem putsComparison (e : Word) (c : Comparison) : PutsComparison s (.next ((s.setIb e).setComparison c)) c := by
  refine ⟨_, rfl, comparisonIs_withComparison _ _ _ rfl, ⟨rfl, rfl⟩, ⟨rfl, rfl⟩, ?_⟩
  constructor
  · intro a _; rfl
  · exact withComparison_masked _ _ _ (by decide)
  all_goals first | rfl | exact fun _ h => h

theorem regAddress_ne_succ (i : FileIndex) : regAddress i ≠ regAddress i + 1#16 := word_ne_succ _

/-- A double-length result in a register pair whose second word nothing blocks. -/
theorem State.writePair_storable (i : FileIndex) (v : DWord) (h : s.storable (regAddress i + 1#16) = true) :
    (s.writePair i v).reg i = highWord v ∧ (s.writePair i v).peek (regAddress i + 1#16) = lowWord v ∧
    (∀ b, b ≠ regAddress i → b ≠ regAddress i + 1#16 → (s.writePair i v).peek b = s.peek b) ∧
    (s.writePair i v).cpu.st = s.cpu.st ∧ (s.writePair i v).cpu.internalPending = s.cpu.internalPending := by
  have h' : (s.setReg i (highWord v)).storable (regAddress i + 1#16) = true := h
  simp only [State.writePair]
  refine ⟨?_, ?_, ?_, ?_, ?_⟩
  · rw [← State.peek_regAddress, State.peek_write_ne _ _ _ _ (regAddress_ne_succ i)]
    simp
  · rw [State.peek_write_storable _ _ _ _ h']
    simp
  · intro b hb hb2
    rw [State.peek_write_ne _ _ _ _ hb2, State.peek_setReg, if_neg hb]
  · rw [State.write_storable_st _ _ _ h']; rfl
  · rw [State.write_storable_internalPending _ _ _ h']; rfl

theorem putsProduct (e : Word) (v : DWord) (i : FileIndex) (h : s.storable (regAddress i + 1#16) = true) :
    PutsPair s (.next ((s.setIb e).putProduct i v)) i v maskCB (bit s.cpu.st bitOI) := by
  obtain ⟨f1, f2, f3, f4, f5⟩ := (s.setIb e).writePair_storable i v h
  refine ⟨_, rfl, f1, f2, comparisonIs_withComparison _ _ _ rfl, ?_, ?_, ?_, ?_⟩
  · simp only [State.putProduct]
    rw [State.setCB_bit _ _ _ (by decide), f4]
    rfl
  · simp [SameCounters, State.putProduct, State.writePair]
  · simp [SameDevices, State.putProduct, State.writePair]
  · constructor
    · intro b hb
      have hb : b ≠ regAddress i ∧ b ≠ regAddress i + 1#16 := by simpa using hb
      exact f3 b hb.1 hb.2
    · simp only [State.putProduct, State.setCB_st]
      rw [withComparison_masked _ _ _ (by decide), f4]
      rfl
    · simp [State.putProduct, State.writePair]
    · exact f5
    · exact State.write_failsOutside _ _ _ _ (by simp)
    · exact fun k h => ((s.setIb e).setReg i (highWord v)).write_checks (regAddress i + 1#16) (lowWord v) k h
    all_goals simp [State.putProduct, State.writePair]

/-- A register pair, `OI` and the comparison bits of its high half: DAD, DS, and a divide that fits. -/
theorem putsPair_overflow (e : Word) (v : DWord) (i : FileIndex) (ov : Bool)
    (h : s.storable (regAddress i + 1#16) = true) :
    PutsPair s (.next ((((s.setIb e).writePair i v).setOverflow ov).setCB (highWord v))) i v (maskOI ||| maskCB) ov := by
  obtain ⟨f1, f2, f3, f4, f5⟩ := (s.setIb e).writePair_storable i v h
  refine ⟨_, rfl, f1, f2, comparisonIs_withComparison _ _ _ rfl, ?_, ?_, ?_, ?_⟩
  · rw [State.setCB_bit _ _ _ (by decide), State.setOverflow_bit _ _ _ (by decide)]
    rfl
  · simp [SameCounters, State.writePair]
  · simp [SameDevices, State.writePair]
  · constructor
    · intro b hb
      have hb : b ≠ regAddress i ∧ b ≠ regAddress i + 1#16 := by simpa using hb
      exact f3 b hb.1 hb.2
    · simp only [State.setCB_st, State.setOverflow_st]
      rw [withComparison_masked _ _ _ (by decide), setBit_masked _ _ _ _ (by decide) (by decide), f4]
      rfl
    · simp [State.writePair]
    · exact f5
    · exact State.write_failsOutside _ _ _ _ (by simp)
    · exact fun k h => ((s.setIb e).setReg i (highWord v)).write_checks (regAddress i + 1#16) (lowWord v) k h
    all_goals simp [State.writePair]

/-! ### Results to memory -/

theorem storesResult (e a v : Word) (h : s.storable a = true) :
    StoresResult s (.next ((s.setIb e).storeResult a v)) a v := by
  have h' : (s.setIb e).storable a = true := h
  refine ⟨_, rfl, ?_, comparisonIs_withComparison _ _ _ rfl, ?_, ?_, ?_⟩
  · simp [State.storeResult, State.peek_write_storable, h']
  · simp [SameCounters, State.storeResult]
  · simp [SameDevices, State.storeResult]
  · constructor
    · intro b hb
      have hb : b ≠ a := by simpa using hb
      simp [State.storeResult, State.peek_write_ne _ _ _ _ hb]
    · simp only [State.storeResult, State.setCB_st]
      rw [withComparison_masked _ _ _ (by decide), State.write_storable_st _ _ _ h']
      rfl
    · simp [State.storeResult]
    · simp only [State.storeResult, State.setCB_internalPending]
      rw [State.write_storable_internalPending _ _ _ h']
      rfl
    · exact (s.setIb e).write_failsOutside _ _ _ (by simp)
    · exact fun k h => (s.setIb e).write_checks a v k h
    all_goals simp [State.storeResult]

theorem storesShift (e a v : Word) (ov : Bool) (h : s.storable a = true) :
    StoresShift s (.next ((s.setIb e).storeShift a v ov)) a v ov := by
  have h' : (s.setIb e).storable a = true := h
  refine ⟨_, rfl, ?_, comparisonIs_withComparison _ _ _ rfl, ?_, ?_, ?_, ?_⟩
  · simp [State.storeShift, State.peek_write_storable, h']
  · simp only [State.storeShift]
    rw [State.setCB_bit _ _ _ (by decide), State.setOverflow_bit _ _ _ (by decide)]
    rfl
  · simp [SameCounters, State.storeShift]
  · simp [SameDevices, State.storeShift]
  · constructor
    · intro b hb
      have hb : b ≠ a := by simpa using hb
      simp [State.storeShift, State.peek_write_ne _ _ _ _ hb]
    · simp only [State.storeShift, State.setCB_st, State.setOverflow_st]
      rw [withComparison_masked _ _ _ (by decide), setBit_masked _ _ _ _ (by decide) (by decide),
        State.write_storable_st _ _ _ h']
      rfl
    · simp [State.storeShift]
    · simp only [State.storeShift, State.setCB_internalPending, State.setOverflow_internalPending]
      rw [State.write_storable_internalPending _ _ _ h']
      rfl
    · exact (s.setIb e).write_failsOutside _ _ _ (by simp)
    · exact fun k h => (s.setIb e).write_checks a v k h
    all_goals simp [State.storeShift]

theorem storesResult2 (e a : Word) (v : DWord) (h : s.storable a = true) (h2 : s.storable (a + 1#16) = true) :
    StoresResult2 s (.next ((s.setIb e).storeResult2 a v)) a v := by
  obtain ⟨f1, f2, f3, f4, f5⟩ := (s.setIb e).write2_storable a v h h2
  refine ⟨_, rfl, ?_, ?_, comparisonIs_withComparison _ _ _ rfl, ?_, ?_, ?_⟩
  · simpa [State.storeResult2] using f1
  · simpa [State.storeResult2] using f2
  · simp [SameCounters, State.storeResult2, State.write2]
  · simp [SameDevices, State.storeResult2, State.write2]
  · constructor
    · intro b hb
      have hb : b ≠ a ∧ b ≠ a + 1#16 := by simpa using hb
      exact f3 b hb.1 hb.2
    · simp only [State.storeResult2, State.setCB_st]
      rw [withComparison_masked _ _ _ (by decide), f4]
      rfl
    · simp [State.storeResult2, State.write2]
    · exact f5
    · exact (s.setIb e).write2_failsOutside _ _ _ (by simp) (by simp)
    · exact fun k h => (s.setIb e).write2_checks a v k h
    all_goals simp [State.storeResult2, State.write2]

theorem storesShift2 (e a : Word) (v : DWord) (ov : Bool) (h : s.storable a = true)
    (h2 : s.storable (a + 1#16) = true) : StoresShift2 s (.next ((s.setIb e).storeShift2 a v ov)) a v ov := by
  obtain ⟨f1, f2, f3, f4, f5⟩ := (s.setIb e).write2_storable a v h h2
  refine ⟨_, rfl, ?_, ?_, comparisonIs_withComparison _ _ _ rfl, ?_, ?_, ?_, ?_⟩
  · simpa [State.storeShift2] using f1
  · simpa [State.storeShift2] using f2
  · simp only [State.storeShift2]
    rw [State.setCB_bit _ _ _ (by decide), State.setOverflow_bit _ _ _ (by decide)]
    rfl
  · simp [SameCounters, State.storeShift2, State.write2]
  · simp [SameDevices, State.storeShift2, State.write2]
  · constructor
    · intro b hb
      have hb : b ≠ a ∧ b ≠ a + 1#16 := by simpa using hb
      exact f3 b hb.1 hb.2
    · simp only [State.storeShift2, State.setCB_st, State.setOverflow_st]
      rw [withComparison_masked _ _ _ (by decide), setBit_masked _ _ _ _ (by decide) (by decide), f4]
      rfl
    · simp [State.storeShift2, State.write2]
    · exact f5
    · exact (s.setIb e).write2_failsOutside _ _ _ (by simp) (by simp)
    · exact fun k h => (s.setIb e).write2_checks a v k h
    all_goals simp [State.storeShift2, State.write2]

/-! ### Branches -/

theorem branches_setLc (e target : Word) : Branches s (.next ((s.setIb e).setLc target)) target := by
  refine ⟨_, rfl, ?_, ?_, ?_⟩
  · constructor
    · simp [State.setLc]
    · have := otherMode_ne s.mode
      simp [State.setLc, this]
  · simp [SameDevices]
  · constructor <;> simp

theorem branches_stay (e : Word) : Branches s (.next (s.setIb e)) s.lc := by
  refine ⟨_, rfl, ⟨?_, ?_⟩, ⟨rfl, rfl⟩, ?_⟩
  · simp [State.lc]
  · simp
  · constructor <;> simp

/-! ### The shared arithmetic, spelled out -/

theorem onesBelow_eq (v : Word) (k : Nat) : onesBelow v k = (List.range k).countP (fun i => v.getLsbD i) := by
  induction k with
  | zero => rfl
  | succ k ih =>
    simp only [onesBelow, ih, List.range_succ, List.countP_append, List.countP_singleton]
    cases v.getLsbD k
    · simp
    · simp; omega

theorem popcount_eq (v : Word) : BitVec.ofNat 16 (popcount v) = onesOf v := by
  simp only [popcount, onesBelow_eq, onesOf]
  congr 1
  have hr : (List.range 16).reverse = (List.range 16).map (fun i => 15 - i) := by decide
  rw [← List.countP_reverse, hr, List.countP_map]
  apply List.countP_congr
  intro i hi
  have hi : i < 16 := by simpa using hi
  simp [bit, BitVec.getMsbD, hi]

theorem compareSigned_eq (a b : Word) : compareSigned a b = order a.toInt b.toInt := by
  simp only [compareSigned, order]
  split_ifs <;> first | rfl | omega

theorem compareLogical_eq (a b : Word) : compareLogical a b = order a.toNat b.toNat := by
  simp only [compareLogical, order]
  split_ifs <;> first | rfl | omega

theorem outside_eq (w : Nat) (x : Int) : outside w x = overflows w x := by
  simp only [outside, overflows]
  by_cases h1 : x < -2 ^ (w - 1) <;> by_cases h2 : 2 ^ (w - 1) ≤ x <;> simp [h1, h2]

theorem shiftOverflow_eq {w : Nat} (v : BitVec w) (c : Nat) : shiftOverflow v c = signChanges v c := by
  induction c generalizing v with
  | zero => rfl
  | succ c ih =>
    simp only [shiftOverflow, ih, signChanges]
    rw [List.range_succ_eq_map, List.any_cons, List.any_map]
    congr 1
    · simp
    · congr 1
      funext k
      have : ∀ j, v <<< 1 <<< j = v <<< (j + 1) := by
        intro j
        rw [Nat.add_comm, BitVec.shiftLeft_add]
      simp only [Function.comp, this]

theorem count16_eq (w : Word) : count16 w = if w.toNat % 16 = 0 then 16 else w.toNat % 16 := by
  have h : (low4 w).toNat = w.toNat % 16 := by simp [low4]
  simp only [count16, BitVec.toNat_eq, h]
  simp

theorem count32_eq (w : Word) : count32 w = if w.toNat % 32 = 0 then 32 else w.toNat % 32 := by
  have h : (low5 w).toNat = w.toNat % 32 := by simp [low5]
  simp only [count32, BitVec.toNat_eq, h]
  simp

/-- The carry of a subtraction is that of adding the complement and one. -/
theorem sub16_carry (a b : Word) : (sub16 a b).carry = decide (0x10000 ≤ a.toNat + (~~~b).toNat + 1) := by
  have := b.isLt
  simp [sub16]
  omega

end Sys2Proof.Machine
end

