-- ==== Sys2Proof/Laws/Blocks.lean ====
section
/-! SUPPORT. What the other shared operations do, said once each: status blocks, forced mode changes, skips, the CRU lines, and
fetching a pair. -/

namespace Sys2Proof.Machine

/-! ### Composing frames -/

variable {s t u : State} {l : List Word} {m m' : Word}

/-- A frame from the fields that hold words. -/
theorem Frame.of_fields (hr : t.cpu.regs = s.cpu.regs) (hm : t.mem = s.mem)
    (hst : t.cpu.st &&& ~~~m = s.cpu.st &&& ~~~m) (hia : t.cpu.ia = s.cpu.ia)
    (hp : t.cpu.internalPending = s.cpu.internalPending) (hc : t.checkFails = s.checkFails) (hcf : t.config = s.config)
    (hpn : t.panel = s.panel) (hrun : t.running = s.running) (hpow : t.powered = s.powered)
    (hsch : t.schedule = s.schedule) : Frame s t [] m :=
  ⟨fun a _ => State.peek_congr hr hm a, hst, hia, hp, by rw [hc], fun _ h => hc ▸ h, hcf, hpn, hrun, hpow, hsch⟩

/-- With nothing written, the same words have bad check bits. -/
theorem Frame.checks_nil (h : Frame s t [] m) : t.checkFails = s.checkFails := by
  simpa using h.checks

theorem Frame.trans_nil (h1 : Frame s t l m) (h2 : Frame t u [] m) : Frame s u l m :=
  ⟨fun a h => (h2.words a (by simp)).trans (h1.words a h), h2.status.trans h1.status, h2.ia.trans h1.ia,
    h2.pending.trans h1.pending, by rw [h2.checks_nil, h1.checks],
    fun k h => h1.noNewFails k (h2.noNewFails k h), h2.config.trans h1.config,
    h2.panel.trans h1.panel, h2.running.trans h1.running, h2.powered.trans h1.powered, h2.schedule.trans h1.schedule⟩

theorem Frame.mono (h : Frame s t l m) (hm : ∀ i, i < 16 → bit m' i = false → bit m i = false) : Frame s t l m' :=
  { h with status := masked_ext (fun i hi hb => bit_of_masked h.status hi (hm i hi hb)) }

theorem Frame.of_setIb {e : Word} (h : Frame (s.setIb e) t l m) : Frame s t l m :=
  ⟨h.words, h.status, h.ia, h.pending, h.checks, h.noNewFails, h.config, h.panel, h.running, h.powered, h.schedule⟩

variable (s)

/-! ### Counters and modes -/

@[simp] theorem State.mode_setMode (md : Mode) : (s.setMode md).mode = md := by
  cases md <;> simp [State.mode, modeOf, State.setMode, bit_setBit, bitMI, Mode.bit]

theorem State.lcOf_setLc (v : Word) : (s.setLc v).lcOf s.mode = v := by simp [State.setLc]

theorem State.lcOf_setLc_other (v : Word) : (s.setLc v).lcOf (otherMode s.mode) = s.lcOf (otherMode s.mode) := by
  have := otherMode_ne s.mode
  simp [State.setLc, this]

/-- A forced mode change. -/
theorem State.switchMode_does :
    ∃ t, (.next s.switchMode : Result) = .next t ∧ t.mode = otherMode s.mode ∧ Counts s t (s.lc - 2#16) ∧
      SameDevices s t ∧ Frame s t [] maskMI := by
  refine ⟨_, rfl, ?_, ⟨?_, ?_⟩, ?_, ?_⟩
  · simp [State.switchMode]
  · have := s.lcOf_setLc (s.lc - 2#16)
    rw [← this]; cases s.mode <;> rfl
  · have := s.lcOf_setLc_other (s.lc - 2#16)
    rw [← this]; cases s.mode <;> rfl
  · simp [SameDevices, State.switchMode]
  · apply Frame.of_fields <;> simp [State.switchMode]
    simp only [State.setMode, State.setSt_st, State.setLc_st]
    exact setBit_masked _ _ _ _ (by decide) (by decide)

/-- Where a comparison of three outcomes goes on (R261). -/
theorem State.skip_branches (c : Comparison) :
    Branches s (.next (s.skip c)) (s.lc + (match c with | .less => 0#16 | .greater => 2#16 | .equal => 4#16)) := by
  cases c
  · exact branches_setLc s s.cpu.ib _
  · exact branches_setLc s s.cpu.ib _
  · have h : s.lc + 0#16 = s.lc := by simp
    show Branches s (.next s) (s.lc + 0#16)
    rw [h]
    exact branches_stay s s.cpu.ib

/-! ### Status blocks -/

/-- No write makes a sound word unsound. -/
theorem State.sound_write (a v b : Word) (hb : s.sound b = true) : (s.write a v).sound b = true := by
  unfold State.sound at *
  cases hp : placeOf b with
  | register i => rfl
  | memory k =>
    rw [hp] at hb
    simp only [Bool.and_eq_true, Bool.not_eq_true', List.contains_eq_mem, decide_eq_false_iff_not] at hb ⊢
    exact ⟨by simpa [State.installed] using hb.1, fun h => hb.2 (s.write_checks a v k h)⟩

/-- A status block that nothing blocks: its two words, and everything else as it was. -/
theorem State.storeStatusBlock_storable (e c : Word) (h : s.storable e = true) (h2 : s.storable (e + 1#16) = true) :
    (s.storeStatusBlock e c).peek e = c ∧ (s.storeStatusBlock e c).peek (e + 1#16) = s.cpu.st ∧
    (s.storeStatusBlock e c).cpu.st = s.cpu.st ∧
    (s.storeStatusBlock e c).cpu.internalPending = s.cpu.internalPending ∧
    SameCounters s (s.storeStatusBlock e c) ∧ SameDevices s (s.storeStatusBlock e c) ∧
    Frame s (s.storeStatusBlock e c) [e, e + 1#16] 0#16 ∧
    ∀ b, s.sound b = true → (s.storeStatusBlock e c).sound b = true := by
  have h2' : (s.write e c).storable (e + 1#16) = true := by simpa using h2
  have hst := s.write_storable_st _ c h
  have hip := s.write_storable_internalPending _ c h
  have q1 := State.write_storable_st _ _ s.cpu.st h2'
  have q2 := State.write_storable_internalPending _ _ s.cpu.st h2'
  simp only [State.storeStatusBlock, hst]
  refine ⟨?_, ?_, q1.trans hst, q2.trans hip, by simp [SameCounters], by simp [SameDevices], ?_, ?_⟩
  · rw [State.peek_write_storable _ _ _ _ h2', if_neg (word_ne_succ e), State.peek_write_storable _ _ _ _ h]
    simp
  · rw [State.peek_write_storable _ _ _ _ h2']
    simp
  · constructor
    · intro b hb
      have hb : b ≠ e ∧ b ≠ e + 1#16 := by simpa using hb
      rw [State.peek_write_ne _ _ _ _ hb.2, State.peek_write_ne _ _ _ _ hb.1]
    · rw [q1, hst]
    · simp
    · exact q2.trans hip
    · exact (State.write_failsOutside _ _ _ _ (by simp)).trans (s.write_failsOutside _ _ _ (by simp))
    · exact fun k h => s.write_checks _ _ k (State.write_checks _ _ _ k h)
    all_goals simp
  · intro b hb
    exact State.sound_write _ _ _ _ (s.sound_write _ _ _ hb)

/-- Fetching a sound pair. -/
theorem State.fetch_sound (a : Word) (h : s.sound a = true) (h2 : s.sound (a + 1#16) = true) :
    s.fetch a = (pairOf (s.peek a) (s.peek (a + 1#16)), (s.setIa (s.peek a)).setIb (s.peek (a + 1#16))) := by
  simp [State.fetch, State.read_sound _ _ h, State.read_sound _ _ h2]

/-! ### The CRU lines -/

theorem extend10_add (v : BitVec 10) (b : Word) : extend10 v + b = b + BitVec.ofNat 16 v.toNat := by
  rw [BitVec.add_comm]
  congr 1
  apply BitVec.eq_of_toNat_eq
  simp [extend10]

theorem lineOf_add (v : BitVec 10) (b : Word) : lineOf (extend10 v + b) = BitVec.ofNat 12 (v.toNat + b.toNat) := by
  apply BitVec.eq_of_toNat_eq
  simp [lineOf, extend10]

theorem lineLevel_setLine (v : CruLines) (a x : CruLine) (b : Bool) :
    lineLevel (setLine v a b) x = if x = a then b else lineLevel v x := by
  have e : x = a ↔ x.toNat = a.toNat := BitVec.toNat_eq
  unfold lineLevel setLine
  cases b <;> by_cases h : x.toNat = a.toNat <;> simp [e, h, mem_insertAddress]

/-- What changes when output lines are driven: nothing but the output latches. -/
def DrivesOutputs (s t : State) (level : CruLine → Bool) : Prop :=
  (∀ x, lineLevel t.cru.outputs x = level x) ∧ t.cru.inputs = s.cru.inputs ∧
  t.cru.interruptLine = s.cru.interruptLine ∧ t.dmac = s.dmac ∧ t.cpu = s.cpu ∧ Frame s t [] 0#16

theorem State.cruOut_drives (a : CruLine) (b : Bool) :
    DrivesOutputs s (s.cruOut a b)
      (fun x => if x = a ∧ s.hasOutput x = true then b else lineLevel s.cru.outputs x) := by
  unfold State.cruOut
  split
  · rename_i hh
    refine ⟨fun x => ?_, rfl, rfl, rfl, rfl, ?_⟩
    · show lineLevel (setLine s.cru.outputs a b) x = _
      rw [lineLevel_setLine]
      by_cases hq : x = a
      · subst hq; simp [hh]
      · simp [hq]
    · apply Frame.of_fields <;> rfl
  · rename_i hh
    refine ⟨fun x => ?_, rfl, rfl, rfl, rfl, ?_⟩
    · show _ = if x = a ∧ s.hasOutput x = true then b else lineLevel s.cru.outputs x
      rw [if_neg]
      rintro ⟨rfl, h⟩
      exact hh h
    · apply Frame.of_fields <;> rfl

theorem State.putField_drives (a : CruLine) (w : Word) (k : Nat) (hk : k ≤ 4096) :
    DrivesOutputs s (s.putField a w k)
      (fun x => if (x - a).toNat < k ∧ s.hasOutput x = true then bit w (15 - (x - a).toNat)
        else lineLevel s.cru.outputs x) := by
  induction k with
  | zero => exact ⟨by simp [State.putField], rfl, rfl, rfl, rfl, by apply Frame.of_fields <;> rfl⟩
  | succ k ih =>
    obtain ⟨i1, i2, i3, i4, i5, i6⟩ := ih (by omega)
    obtain ⟨c1, c2, c3, c4, c5, c6⟩ := (s.putField a w k).cruOut_drives (fieldLine a k) (bit w (15 - k))
    refine ⟨fun x => ?_, c2.trans i2, c3.trans i3, c4.trans i4, c5.trans i5, i6.trans_nil c6⟩
    have ho : (s.putField a w k).hasOutput x = s.hasOutput x := by simp [State.hasOutput, i6.config]
    have hl : x = fieldLine a k ↔ (x - a).toNat = k := by
      have hx := x.isLt
      have ha := a.isLt
      simp only [fieldLine, BitVec.toNat_eq, BitVec.toNat_add, BitVec.toNat_sub, BitVec.toNat_ofNat]
      omega
    rw [State.putField, c1]
    simp only [i1, ho]
    by_cases h : (x - a).toNat = k
    · have h' := hl.2 h
      subst h'
      simp [h]
    · have h' : x ≠ fieldLine a k := fun e => h (hl.1 e)
      have h3 : (x - a).toNat < k + 1 ↔ (x - a).toNat < k := by omega
      simp only [h', h3, false_and, if_false]

/-- Input lines that all have a module: nothing changes, and line `j` is bit `15 - j`. -/
theorem State.getField_installed (a : CruLine) (k : Nat) (hk : k ≤ 16)
    (h : ∀ j, j < k → s.hasInput (a + BitVec.ofNat 12 j) = true) :
    (s.getField a k).2 = s ∧
    ∀ j, j < 16 → bit (s.getField a k).1 (15 - j) =
      (if j < k then lineLevel s.cru.inputs (a + BitVec.ofNat 12 j) else false) := by
  induction k with
  | zero => exact ⟨rfl, by intro j hj; simp [State.getField, bit]⟩
  | succ k ih =>
    obtain ⟨i1, i2⟩ := ih (by omega) (fun j hj => h j (by omega))
    have e : s.cruIn (fieldLine a k) = (lineLevel s.cru.inputs (a + BitVec.ofNat 12 k), s) := by
      simp [State.cruIn, fieldLine, h k (by omega)]
    simp only [State.getField, i1, e, true_and]
    intro j hj
    rw [bit_setBit _ _ _ _ (by omega) (by omega), i2 j hj]
    by_cases hjk : j = k
    · subst hjk; simp
    · have h1 : ¬ 15 - k = 15 - j := by omega
      have h3 : j < k + 1 ↔ j < k := by omega
      simp [h1, h3]

end Sys2Proof.Machine
end

