-- ==== Sys2Proof/Laws/Encoding.lean ====
section
/-! SUPPORT. Every field of an encoded pair, read back: what the decoder finds at each position of each layout (R102 to
R114). -/

set_option linter.unusedSimpArgs false

namespace Sys2Proof

theorem getLsbD_place {w : Nat} (v : BitVec w) (sh i : Nat) :
    (place v sh).getLsbD i = (decide (i < 32) && decide (sh ≤ i) && v.getLsbD (i - sh)) := by
  simp only [place, BitVec.getLsbD_shiftLeft, BitVec.getLsbD_setWidth]
  by_cases h : i < 32
  · by_cases h2 : sh ≤ i
    · simp [h, h2, show ¬ i < sh by omega, show i - sh < 32 by omega]
    · simp [h, h2, show i < sh by omega]
  · simp [h]

theorem getElem_place {w : Nat} (v : BitVec w) (sh i : Nat) (hi : i < 32) :
    (place v sh)[i] = (decide (sh ≤ i) && v.getLsbD (i - sh)) := by
  rw [BitVec.getElem_eq_testBit_toNat, BitVec.testBit_toNat, getLsbD_place]
  simp [hi]

@[simp] theorem toFin_reg3 (r : RegNo) : (reg3 r).toFin = r := rfl
@[simp] theorem toFin_ofFin4 (b : Fin 16) : (BitVec.ofFin b : BitVec 4).toFin = b := rfl

@[simp] theorem getElem_bit1 (b : Bool) : (bit1 b)[0] = b := by cases b <;> rfl

@[simp] theorem getLsbD_bit1 (b : Bool) (i : Nat) : (bit1 b).getLsbD i = (decide (i = 0) && b) := by
  cases i <;> cases b <;> simp [bit1]

/-- A count 1 to 16 survives its 4-bit field. -/
theorem countOf_count4 (c : Nat) (h : countOk c = true) : countOf (count4 c) = c := by
  simp only [countOk, Bool.and_eq_true, decide_eq_true_eq] at h
  obtain ⟨h1, h2⟩ := h
  interval_cases c <;> rfl

/-- Whatever a 4-bit field holds is a count 1 to 16. -/
theorem countOk_countOf (f : BitVec 4) : countOk (countOf f) = true := by
  revert f; decide

/-! ### Group I -/

@[simp] theorem opField_encodeGroup1 (op : BitVec 6) (k : Bool) (adr : Address) (low : BitVec 4) : opField (encodeGroup1 op k adr low) = op := by
  apply BitVec.eq_of_getLsbD_eq
  intro i hi
  simp [opField, encodeGroup1, getLsbD_place]
  interval_cases i <;> simp [BitVec.getLsbD_of_ge]

@[simp] theorem xBit_encodeGroup1 (op : BitVec 6) (k : Bool) (adr : Address) (low : BitVec 4) : xBit (encodeGroup1 op k adr low) = adr.x := by
  simp [xBit, encodeGroup1, getElem_place, BitVec.getLsbD_of_ge]

@[simp] theorem indBit_encodeGroup1 (op : BitVec 6) (k : Bool) (adr : Address) (low : BitVec 4) : indBit (encodeGroup1 op k adr low) = adr.ind := by
  simp [indBit, encodeGroup1, getElem_place, BitVec.getLsbD_of_ge]

@[simp] theorem kBit_encodeGroup1 (op : BitVec 6) (k : Bool) (adr : Address) (low : BitVec 4) : kBit (encodeGroup1 op k adr low) = k := by
  simp [kBit, encodeGroup1, getElem_place, BitVec.getLsbD_of_ge]

@[simp] theorem xrField_encodeGroup1 (op : BitVec 6) (k : Bool) (adr : Address) (low : BitVec 4) : xrField (encodeGroup1 op k adr low) = reg3 adr.xr := by
  apply BitVec.eq_of_getLsbD_eq
  intro i hi
  simp [xrField, encodeGroup1, getLsbD_place]
  interval_cases i <;> simp [BitVec.getLsbD_of_ge]

@[simp] theorem altBit_encodeGroup1 (op : BitVec 6) (k : Bool) (adr : Address) (low : BitVec 4) : altBit (encodeGroup1 op k adr low) = low.getLsbD 3 := by
  simp [altBit, encodeGroup1, getElem_place, BitVec.getLsbD_of_ge]

@[simp] theorem rField_encodeGroup1 (op : BitVec 6) (k : Bool) (adr : Address) (low : BitVec 4) : rField (encodeGroup1 op k adr low) = low.extractLsb' 0 3 := by
  apply BitVec.eq_of_getLsbD_eq
  intro i hi
  simp [rField, encodeGroup1, getLsbD_place]
  interval_cases i <;> simp [BitVec.getLsbD_of_ge]

@[simp] theorem r4Field_encodeGroup1 (op : BitVec 6) (k : Bool) (adr : Address) (low : BitVec 4) : r4Field (encodeGroup1 op k adr low) = low := by
  apply BitVec.eq_of_getLsbD_eq
  intro i hi
  simp [r4Field, encodeGroup1, getLsbD_place]
  interval_cases i <;> simp [BitVec.getLsbD_of_ge]

@[simp] theorem nField_encodeGroup1 (op : BitVec 6) (k : Bool) (adr : Address) (low : BitVec 4) : nField (encodeGroup1 op k adr low) = adr.n := by
  apply BitVec.eq_of_getLsbD_eq
  intro i hi
  simp [nField, encodeGroup1, getLsbD_place]
  interval_cases i <;> simp [BitVec.getLsbD_of_ge]

@[simp] theorem addressOf_encodeGroup1 (op : BitVec 6) (k : Bool) (adr : Address) (low : BitVec 4) :
    addressOf (encodeGroup1 op k adr low) = adr := by
  cases adr <;> simp [addressOf, Address.x, Address.ind, Address.xr, Address.n]

@[simp] theorem opField_encodeIA (op : BitVec 6) (k : Bool) (reg : RegRef) (adr : Address) : opField (encodeIA op k reg adr) = op := by
  simp [encodeIA]

@[simp] theorem kBit_encodeIA (op : BitVec 6) (k : Bool) (reg : RegRef) (adr : Address) : kBit (encodeIA op k reg adr) = k := by
  simp [encodeIA]

@[simp] theorem addressOf_encodeIA (op : BitVec 6) (k : Bool) (reg : RegRef) (adr : Address) :
    addressOf (encodeIA op k reg adr) = adr := by
  simp [encodeIA]

@[simp] theorem regRefOf_encodeIA (op : BitVec 6) (k : Bool) (reg : RegRef) (adr : Address) :
    regRefOf (encodeIA op k reg adr) = reg := by
  obtain ⟨alt, r⟩ := reg
  simp only [regRefOf, encodeIA, altBit_encodeGroup1, rField_encodeGroup1, RegRef.mk.injEq]
  revert alt r
  decide

@[simp] theorem opField_encodeIC (op : BitVec 6) (k : Bool) (e : BitVec 3) (rq : Bool) (adr : Address) : opField (encodeIC op k e rq adr) = op := by
  simp [encodeIC]

@[simp] theorem kBit_encodeIC (op : BitVec 6) (k : Bool) (e : BitVec 3) (rq : Bool) (adr : Address) : kBit (encodeIC op k e rq adr) = k := by
  simp [encodeIC]

@[simp] theorem addressOf_encodeIC (op : BitVec 6) (k : Bool) (e : BitVec 3) (rq : Bool) (adr : Address) :
    addressOf (encodeIC op k e rq adr) = adr := by
  simp [encodeIC]

@[simp] theorem altBit_encodeIC (op : BitVec 6) (k : Bool) (e : BitVec 3) (rq : Bool) (adr : Address) :
    altBit (encodeIC op k e rq adr) = rq := by
  simp only [encodeIC, altBit_encodeGroup1]
  revert e rq
  decide

@[simp] theorem rField_encodeIC (op : BitVec 6) (k : Bool) (e : BitVec 3) (rq : Bool) (adr : Address) :
    rField (encodeIC op k e rq adr) = e := by
  simp only [encodeIC, rField_encodeGroup1]
  revert e rq
  decide

/-! ### Formats I-D, I-E and Group II -/

@[simp] theorem opField_encodeID (rq : Bool) (xr : RegNo) (addend : BitVec 4) (n : Word) : opField (encodeID rq xr addend n) = 0x03#6 := by
  apply BitVec.eq_of_getLsbD_eq
  intro i hi
  simp [opField, encodeID, getLsbD_place]
  interval_cases i <;> simp [BitVec.getLsbD_of_ge]

@[simp] theorem kBit_encodeID (rq : Bool) (xr : RegNo) (addend : BitVec 4) (n : Word) : kBit (encodeID rq xr addend n) = rq := by
  simp [kBit, encodeID, getElem_place, BitVec.getLsbD_of_ge]

@[simp] theorem xrField_encodeID (rq : Bool) (xr : RegNo) (addend : BitVec 4) (n : Word) : xrField (encodeID rq xr addend n) = reg3 xr := by
  apply BitVec.eq_of_getLsbD_eq
  intro i hi
  simp [xrField, encodeID, getLsbD_place]
  interval_cases i <;> simp [BitVec.getLsbD_of_ge]

@[simp] theorem r4Field_encodeID (rq : Bool) (xr : RegNo) (addend : BitVec 4) (n : Word) : r4Field (encodeID rq xr addend n) = addend := by
  apply BitVec.eq_of_getLsbD_eq
  intro i hi
  simp [r4Field, encodeID, getLsbD_place]
  interval_cases i <;> simp [BitVec.getLsbD_of_ge]

@[simp] theorem nField_encodeID (rq : Bool) (xr : RegNo) (addend : BitVec 4) (n : Word) : nField (encodeID rq xr addend n) = n := by
  apply BitVec.eq_of_getLsbD_eq
  intro i hi
  simp [nField, encodeID, getLsbD_place]
  interval_cases i <;> simp [BitVec.getLsbD_of_ge]

@[simp] theorem opField_encodeIE (aq : BitVec 10) (n : Word) : opField (encodeIE aq n) = 0x09#6 := by
  apply BitVec.eq_of_getLsbD_eq
  intro i hi
  simp [opField, encodeIE, getLsbD_place]
  interval_cases i <;> simp [BitVec.getLsbD_of_ge]

@[simp] theorem mField_encodeIE (aq : BitVec 10) (n : Word) : mField (encodeIE aq n) = aq := by
  apply BitVec.eq_of_getLsbD_eq
  intro i hi
  simp [mField, encodeIE, getLsbD_place]
  interval_cases i <;> simp [BitVec.getLsbD_of_ge]

@[simp] theorem nField_encodeIE (aq : BitVec 10) (n : Word) : nField (encodeIE aq n) = n := by
  apply BitVec.eq_of_getLsbD_eq
  intro i hi
  simp [nField, encodeIE, getLsbD_place]
  interval_cases i <;> simp [BitVec.getLsbD_of_ge]

@[simp] theorem opField_encodeII (op : BitVec 6) (m : BitVec 10) (mb nb : BitVec 3) (n : BitVec 10) : opField (encodeII op m mb nb n) = op := by
  apply BitVec.eq_of_getLsbD_eq
  intro i hi
  simp [opField, encodeII, getLsbD_place]
  interval_cases i <;> simp [BitVec.getLsbD_of_ge]

@[simp] theorem mField_encodeII (op : BitVec 6) (m : BitVec 10) (mb nb : BitVec 3) (n : BitVec 10) : mField (encodeII op m mb nb n) = m := by
  apply BitVec.eq_of_getLsbD_eq
  intro i hi
  simp [mField, encodeII, getLsbD_place]
  interval_cases i <;> simp [BitVec.getLsbD_of_ge]

@[simp] theorem mbField_encodeII (op : BitVec 6) (m : BitVec 10) (mb nb : BitVec 3) (n : BitVec 10) : mbField (encodeII op m mb nb n) = mb := by
  apply BitVec.eq_of_getLsbD_eq
  intro i hi
  simp [mbField, encodeII, getLsbD_place]
  interval_cases i <;> simp [BitVec.getLsbD_of_ge]

@[simp] theorem nbField_encodeII (op : BitVec 6) (m : BitVec 10) (mb nb : BitVec 3) (n : BitVec 10) : nbField (encodeII op m mb nb n) = nb := by
  apply BitVec.eq_of_getLsbD_eq
  intro i hi
  simp [nbField, encodeII, getLsbD_place]
  interval_cases i <;> simp [BitVec.getLsbD_of_ge]

@[simp] theorem n10Field_encodeII (op : BitVec 6) (m : BitVec 10) (mb nb : BitVec 3) (n : BitVec 10) : n10Field (encodeII op m mb nb n) = n := by
  apply BitVec.eq_of_getLsbD_eq
  intro i hi
  simp [n10Field, encodeII, getLsbD_place]
  interval_cases i <;> simp [BitVec.getLsbD_of_ge]

@[simp] theorem rField_encodeII (op : BitVec 6) (m : BitVec 10) (mb nb : BitVec 3) (n : BitVec 10) : rField (encodeII op m mb nb n) = m.extractLsb' 0 3 := by
  apply BitVec.eq_of_getLsbD_eq
  intro i hi
  simp [rField, encodeII, getLsbD_place]
  interval_cases i <;> simp [BitVec.getLsbD_of_ge]

@[simp] theorem opField_encodeIIC (op : BitVec 6) (o : BaseRef) (value : BitVec 13) : opField (encodeIIC op o value) = op := by
  apply BitVec.eq_of_getLsbD_eq
  intro i hi
  simp [opField, encodeIIC, getLsbD_place]
  interval_cases i <;> simp [BitVec.getLsbD_of_ge]

@[simp] theorem mField_encodeIIC (op : BitVec 6) (o : BaseRef) (value : BitVec 13) : mField (encodeIIC op o value) = o.disp := by
  apply BitVec.eq_of_getLsbD_eq
  intro i hi
  simp [mField, encodeIIC, getLsbD_place]
  interval_cases i <;> simp [BitVec.getLsbD_of_ge]

@[simp] theorem mbField_encodeIIC (op : BitVec 6) (o : BaseRef) (value : BitVec 13) : mbField (encodeIIC op o value) = reg3 o.base := by
  apply BitVec.eq_of_getLsbD_eq
  intro i hi
  simp [mbField, encodeIIC, getLsbD_place]
  interval_cases i <;> simp [BitVec.getLsbD_of_ge]

@[simp] theorem valueField_encodeIIC (op : BitVec 6) (o : BaseRef) (value : BitVec 13) : valueField (encodeIIC op o value) = value := by
  apply BitVec.eq_of_getLsbD_eq
  intro i hi
  simp [valueField, encodeIIC, getLsbD_place]
  interval_cases i <;> simp [BitVec.getLsbD_of_ge]

/-! ### Group III -/

@[simp] theorem opField_encodeIII (op : BitVec 6) (m : BitVec 10) (b : BitVec 4) (v1 am : Bool) (n : BitVec 10) : opField (encodeIII op m b v1 am n) = op := by
  apply BitVec.eq_of_getLsbD_eq
  intro i hi
  simp [opField, encodeIII, getLsbD_place]
  interval_cases i <;> simp [BitVec.getLsbD_of_ge]

@[simp] theorem mField_encodeIII (op : BitVec 6) (m : BitVec 10) (b : BitVec 4) (v1 am : Bool) (n : BitVec 10) : mField (encodeIII op m b v1 am n) = m := by
  apply BitVec.eq_of_getLsbD_eq
  intro i hi
  simp [mField, encodeIII, getLsbD_place]
  interval_cases i <;> simp [BitVec.getLsbD_of_ge]

@[simp] theorem bField_encodeIII (op : BitVec 6) (m : BitVec 10) (b : BitVec 4) (v1 am : Bool) (n : BitVec 10) : bField (encodeIII op m b v1 am n) = b := by
  apply BitVec.eq_of_getLsbD_eq
  intro i hi
  simp [bField, encodeIII, getLsbD_place]
  interval_cases i <;> simp [BitVec.getLsbD_of_ge]

@[simp] theorem v1Bit_encodeIII (op : BitVec 6) (m : BitVec 10) (b : BitVec 4) (v1 am : Bool) (n : BitVec 10) : v1Bit (encodeIII op m b v1 am n) = v1 := by
  simp [v1Bit, encodeIII, getElem_place, BitVec.getLsbD_of_ge]

@[simp] theorem amBit_encodeIII (op : BitVec 6) (m : BitVec 10) (b : BitVec 4) (v1 am : Bool) (n : BitVec 10) : amBit (encodeIII op m b v1 am n) = am := by
  simp [amBit, encodeIII, getElem_place, BitVec.getLsbD_of_ge]

@[simp] theorem n10Field_encodeIII (op : BitVec 6) (m : BitVec 10) (b : BitVec 4) (v1 am : Bool) (n : BitVec 10) : n10Field (encodeIII op m b v1 am n) = n := by
  apply BitVec.eq_of_getLsbD_eq
  intro i hi
  simp [n10Field, encodeIII, getLsbD_place]
  interval_cases i <;> simp [BitVec.getLsbD_of_ge]

theorem outputBit_encodeIII (L : Layout) (op : BitVec 6) (m : BitVec 10) (ob v1 am : Bool) (n : BitVec 10) :
    outputBit L (encodeIII op m (tsbxField L ob) v1 am n) = ob := by
  cases h : L.tsbx <;> simp [outputBit, tsbxField, h, encodeIII, getElem_place, BitVec.getLsbD_of_ge]

/-! ### BRRL -/

@[simp] theorem opField_encodeBrrl (L : Layout) (link : RegNo) (target : BaseRef) :
    opField (encodeBrrl L link target) = 0x0A#6 := by
  cases h : L.brrl <;> simp [encodeBrrl, h]

theorem linkField_encodeBrrl (L : Layout) (link : RegNo) (target : BaseRef) :
    (linkField L (encodeBrrl L link target)).toFin = link := by
  cases h : L.brrl
  · simp [encodeBrrl, linkField, h]
  · simp only [encodeBrrl, linkField, h, rField_encodeII]
    revert link
    decide

theorem secondOperand_encodeBrrl (L : Layout) (link : RegNo) (target : BaseRef) :
    secondOperand (encodeBrrl L link target) = target := by
  cases h : L.brrl <;> simp [encodeBrrl, secondOperand, h]

end Sys2Proof
end

