-- ==== Sys2Proof/Laws/Entry.lean ====
section
/-! SUPPORT. What the parts of an interrupt entry do, said once: raising a cause, recognising a request, and setting the masks. -/

namespace Sys2Proof.Machine

variable (s : State)

/-- Raising a cause is one new status word and one new value of the latch. -/
theorem State.raiseInternal_eq (c : Cause) :
    s.raiseInternal c =
      (s.setSt (setBit s.cpu.st (causeBit c) true)).setPending
        (if bit s.cpu.st bitII && s.config.maskedPolicy == .drop then s.cpu.internalPending else true) := by
  unfold State.raiseInternal
  cases bit s.cpu.st bitII <;> cases s.config.maskedPolicy <;> rfl

/-- Setting the masks is one new status word and one new value of the latch (R381 step 3). -/
theorem State.maskAfter_eq (v : Level) :
    s.maskAfter v =
      (s.setSt (s.cpu.st ||| (match v with | .internal => 0x01C0#16 | .cru => 0x00C0#16 | .dmac => 0x0080#16))).setPending
        (if v = .internal ∧ s.config.requestClearing = .last then false else s.cpu.internalPending) := by
  cases v
  · cases h : s.config.requestClearing
    · simp [State.maskAfter, setBit, bitMask, bitII, bitDI, bitCI, BitVec.or_assoc, h]
    · simp [State.maskAfter, setBit, bitMask, bitII, bitDI, bitCI, BitVec.or_assoc, h]
      rfl
  · simp [State.maskAfter, setBit, bitMask, bitDI, bitCI, BitVec.or_assoc]
    rfl
  · simp [State.maskAfter, setBit, bitMask, bitDI]
    rfl

/-! ### The DMAC's answer -/

/-- Two states that differ in no more than the words at some addresses, their check bits and the DMAC. -/
structure StoresOnly (s t : State) (written : Word → Prop) : Prop where
  words : ∀ a, ¬ written a → t.peek a = s.peek a
  sound : ∀ a, s.sound a = true → t.sound a = true
  config : t.config = s.config

theorem StoresOnly.refl (p : Word → Prop) : StoresOnly s s p := ⟨fun _ _ => rfl, fun _ h => h, rfl⟩

theorem StoresOnly.trans {s t u : State} {p : Word → Prop} (h1 : StoresOnly s t p) (h2 : StoresOnly t u p) :
    StoresOnly s u p :=
  ⟨fun a ha => (h2.words a ha).trans (h1.words a ha), fun a ha => h2.sound a (h1.sound a ha),
    h2.config.trans h1.config⟩

/-- No store makes a sound word unsound. -/
theorem State.sound_store (a v b : Word) (hb : s.sound b = true) : (s.store a v).sound b = true := by
  unfold State.sound at *
  cases hp : placeOf b with
  | register i => rfl
  | memory k =>
    rw [hp] at hb
    simp only [Bool.and_eq_true, Bool.not_eq_true', List.contains_eq_mem, decide_eq_false_iff_not] at hb ⊢
    exact ⟨by simpa [State.installed] using hb.1, fun h => hb.2 (s.store_checks a v k h)⟩

theorem State.storesOnly_store (a v : Word) (p : Word → Prop) (h : p a) : StoresOnly s (s.store a v) p :=
  ⟨fun b hb => s.peek_store_ne a v b (fun e => hb (e ▸ h)), fun b hb => s.sound_store a v b hb, by simp⟩

theorem State.storesOnly_controllers (l : List (Fin 8)) (p : Word → Prop)
    (h : ∀ c ∈ l, p (controllerAddress c) ∧ p (controllerAddress c + 1#16)) :
    StoresOnly s (l.foldl State.storeController s) p := by
  induction l generalizing s with
  | nil => exact StoresOnly.refl s p
  | cons c l ih =>
    rw [List.foldl_cons]
    refine StoresOnly.trans ?_ (ih _ (fun d hd => h d (List.mem_cons_of_mem _ hd)))
    unfold State.storeController
    split
    · have hc := h c (List.mem_cons_self ..)
      exact (s.storesOnly_store _ _ p hc.1).trans (State.storesOnly_store _ _ _ p hc.2)
    · exact StoresOnly.refl s p

/-- Recognising a level changes no word outside the DMAC's own, and makes none unsound (R66, R386). -/
theorem State.recognise_storesOnly (v : Level) :
    StoresOnly s (s.recognise v) (fun a => 0x96 ≤ a.toNat ∧ a.toNat ≤ 0xA7) := by
  cases v with
  | internal =>
    simp only [State.recognise]
    split
    · exact StoresOnly.refl s _
    · exact ⟨fun _ _ => rfl, fun _ h => h, rfl⟩
  | cru => exact StoresOnly.refl s _
  | dmac =>
    have h1 := s.storesOnly_store 0x96#16 (Config.dmacStatusWord s.dmac.intStatus s.freeCount)
      (fun a => 0x96 ≤ a.toNat ∧ a.toNat ≤ 0xA7) (by decide)
    have h2 := ((s.store 0x96#16 (Config.dmacStatusWord s.dmac.intStatus s.freeCount)).useFree).storesOnly_controllers
      controllers (fun a => 0x96 ≤ a.toNat ∧ a.toNat ≤ 0xA7) (by decide)
    exact ⟨fun a ha => (h2.words a ha).trans (h1.words a ha), fun a ha => h2.sound a (h1.sound a ha),
      h2.config.trans h1.config⟩

end Sys2Proof.Machine
end

