-- ==== Sys2Proof/Laws/PerInstr.lean ====
section
/-! SUPPORT. For every instruction: its encoding has the bits `spec/opcode_table.json` fixes for its row (`mask` and `match`),
whatever its operands and the layout. One lemma per constructor. -/

namespace Sys2Proof.Laws

/-- The fixed bits of a row of the table. -/
structure Row where
  mask : DWord
  fixed : DWord
  deriving DecidableEq, Repr

/-- The row of each instruction, copied from the table. -/
def rowOf : Instr → Row
  | .a _ _ => { mask := 0xFC800000#32, fixed := 0x4C000000#32 }
  | .aa _ _ => { mask := 0xFC800000#32, fixed := 0x4C800000#32 }
  | .bl _ _ => { mask := 0xFC800000#32, fixed := 0x74800000#32 }
  | .starBL _ _ => { mask := 0xFC800000#32, fixed := 0x74000000#32 }
  | .cr _ _ => { mask := 0xFC800000#32, fixed := 0xC0000000#32 }
  | .cra _ _ => { mask := 0xFC800000#32, fixed := 0xC0800000#32 }
  | .crl _ _ => { mask := 0xFC800000#32, fixed := 0xC4000000#32 }
  | .crla _ _ => { mask := 0xFC800000#32, fixed := 0xC4800000#32 }
  | .d _ _ => { mask := 0xFC800000#32, fixed := 0xD0000000#32 }
  | .da _ _ => { mask := 0xFC800000#32, fixed := 0xD0800000#32 }
  | .dad _ _ => { mask := 0xFC800000#32, fixed := 0xE8000000#32 }
  | .dlax _ _ => { mask := 0xFC800000#32, fixed := 0xC8800000#32 }
  | .drax _ _ => { mask := 0xFC800000#32, fixed := 0xD4800000#32 }
  | .drlx _ _ => { mask := 0xFC800000#32, fixed := 0xD8800000#32 }
  | .drrx _ _ => { mask := 0xFC800000#32, fixed := 0xDC800000#32 }
  | .ds _ _ => { mask := 0xFC800000#32, fixed := 0xEC000000#32 }
  | .l _ _ => { mask := 0xFC800000#32, fixed := 0x44000000#32 }
  | .la _ _ => { mask := 0xFC800000#32, fixed := 0x44800000#32 }
  | .lot _ _ => { mask := 0xFC800000#32, fixed := 0x54000000#32 }
  | .lota _ _ => { mask := 0xFC800000#32, fixed := 0x54800000#32 }
  | .m _ _ => { mask := 0xFC800000#32, fixed := 0xCC000000#32 }
  | .ma _ _ => { mask := 0xFC800000#32, fixed := 0xCC800000#32 }
  | .mlax _ _ => { mask := 0xFC800000#32, fixed := 0x60800000#32 }
  | .mrax _ _ => { mask := 0xFC800000#32, fixed := 0x64800000#32 }
  | .mrrx _ _ => { mask := 0xFC800000#32, fixed := 0x68800000#32 }
  | .n _ _ => { mask := 0xFC800000#32, fixed := 0x58000000#32 }
  | .na _ _ => { mask := 0xFC800000#32, fixed := 0x58800000#32 }
  | .or _ _ => { mask := 0xFC800000#32, fixed := 0x5C000000#32 }
  | .ora _ _ => { mask := 0xFC800000#32, fixed := 0x5C800000#32 }
  | .s _ _ => { mask := 0xFC800000#32, fixed := 0x50000000#32 }
  | .sa _ _ => { mask := 0xFC800000#32, fixed := 0x50800000#32 }
  | .sat _ _ => { mask := 0xFC800000#32, fixed := 0x6C000000#32 }
  | .st _ _ => { mask := 0xFC800000#32, fixed := 0x48800000#32 }
  | .xor _ _ => { mask := 0xFC800000#32, fixed := 0x40000000#32 }
  | .xora _ _ => { mask := 0xFC800000#32, fixed := 0x40800000#32 }
  | .bc _ _ => { mask := 0xFC800000#32, fixed := 0xE0800000#32 }
  | .starBC _ _ => { mask := 0xFC800000#32, fixed := 0xE0000000#32 }
  | .dla _ _ => { mask := 0xFC800000#32, fixed := 0xC8000000#32 }
  | .dra _ _ => { mask := 0xFC800000#32, fixed := 0xD4000000#32 }
  | .drl _ _ => { mask := 0xFC800000#32, fixed := 0xD8000000#32 }
  | .drr _ _ => { mask := 0xFC800000#32, fixed := 0xDC000000#32 }
  | .mla _ _ => { mask := 0xFC800000#32, fixed := 0x60000000#32 }
  | .mra _ _ => { mask := 0xFC800000#32, fixed := 0x64000000#32 }
  | .mrr _ _ => { mask := 0xFC800000#32, fixed := 0x68000000#32 }
  | .b _ _ => { mask := 0xFC870000#32, fixed := 0x70820000#32 }
  | .starB _ _ => { mask := 0xFC870000#32, fixed := 0x70020000#32 }
  | .lds _ _ => { mask := 0xFC870000#32, fixed := 0x7C000000#32 }
  | .nop => { mask := 0xFC870000#32, fixed := 0x70070000#32 }
  | .ss _ _ => { mask := 0xFC870000#32, fixed := 0x78860000#32 }
  | .ssb _ _ => { mask := 0xFC870000#32, fixed := 0x78820000#32 }
  | .sxbs _ _ => { mask := 0xFC870000#32, fixed := 0x78800000#32 }
  | .sxbw _ _ => { mask := 0xFC870000#32, fixed := 0x78810000#32 }
  | .sxs _ _ => { mask := 0xFC870000#32, fixed := 0x78840000#32 }
  | .sxw _ _ => { mask := 0xFC870000#32, fixed := 0x78850000#32 }
  | .xs => { mask := 0xFC870000#32, fixed := 0x70040000#32 }
  | .xsb _ _ => { mask := 0xFC870000#32, fixed := 0x70800000#32 }
  | .starXSB _ _ => { mask := 0xFC870000#32, fixed := 0x70000000#32 }
  | .xw => { mask := 0xFC870000#32, fixed := 0x70050000#32 }
  | .xwb _ _ => { mask := 0xFC870000#32, fixed := 0x70810000#32 }
  | .starXWB _ _ => { mask := 0xFC870000#32, fixed := 0x70010000#32 }
  | .arb _ _ _ _ => { mask := 0xFC000000#32, fixed := 0x0C000000#32 }
  | .adac _ _ => { mask := 0xFC000000#32, fixed := 0x24000000#32 }
  | .stps _ => { mask := 0xFC800000#32, fixed := 0xE4800000#32 }
  | .cm _ _ => { mask := 0xFC000000#32, fixed := 0x10000000#32 }
  | .cml _ _ => { mask := 0xFC000000#32, fixed := 0x18000000#32 }
  | .mov _ _ => { mask := 0xFC000000#32, fixed := 0x14000000#32 }
  | .brrl _ _ => { mask := 0xFC000000#32, fixed := 0x28000000#32 }
  | .ami _ _ => { mask := 0xFC000000#32, fixed := 0x20000000#32 }
  | .cmi _ _ => { mask := 0xFC000000#32, fixed := 0x1C000000#32 }
  | .setf _ _ _ => { mask := 0xFC000000#32, fixed := 0x88000000#32 }
  | .xfne _ _ _ => { mask := 0xFC000000#32, fixed := 0x80000000#32 }
  | .bfne _ _ _ _ => { mask := 0xFC000000#32, fixed := 0x84000000#32 }
  | .setb _ _ _ => { mask := 0xFC000000#32, fixed := 0x34000000#32 }
  | .xbne _ _ _ => { mask := 0xFC000000#32, fixed := 0x38000000#32 }
  | .bbne _ _ _ _ => { mask := 0xFC000000#32, fixed := 0x30000000#32 }
  | .tsbx _ _ _ _ _ => { mask := 0xFC000000#32, fixed := 0x3C000000#32 }
  | .ldcr _ _ _ _ => { mask := 0xFC000000#32, fixed := 0x08000000#32 }
  | .stcr _ _ _ _ => { mask := 0xFC000000#32, fixed := 0x2C000000#32 }

/-- The encoding of `i` has the fixed bits of its row. -/
def EncodeMatchesTable.Statement (i : Instr) : Prop :=
  ∀ L : Layout, encode L i &&& (rowOf i).mask = (rowOf i).fixed

/-! ### From the fields to the mask -/

theorem pair_bits (p q : DWord) (h : ∀ i, i < 32 → p.getLsbD i = q.getLsbD i) : p = q :=
  BitVec.eq_of_getLsbD_eq (fun i hi => h i hi)

/-- Rows fixed by bits 0 to 5. -/
theorem masked_op (p : DWord) (op : BitVec 6) (f : DWord) (h : opField p = op) (hf : place op 26 = f) :
    p &&& 0xFC000000#32 = f := by
  subst h hf
  apply pair_bits
  intro i hi
  rw [getLsbD_place, BitVec.getLsbD_and]
  interval_cases i <;> simp [opField]

/-- Rows fixed by bits 0 to 5 and 8. -/
theorem masked_opk (p : DWord) (op : BitVec 6) (k : Bool) (f : DWord) (h : opField p = op) (hk : kBit p = k)
    (hf : place op 26 ||| place (bit1 k) 23 = f) : p &&& 0xFC800000#32 = f := by
  subst h hk hf
  apply pair_bits
  intro i hi
  rw [BitVec.getLsbD_or, getLsbD_place, getLsbD_place, BitVec.getLsbD_and]
  interval_cases i <;> simp [opField, kBit]

/-- Rows fixed by bits 0 to 5, 8, and 13 to 15. -/
theorem masked_opke (p : DWord) (op : BitVec 6) (k : Bool) (e : BitVec 3) (f : DWord) (h : opField p = op)
    (hk : kBit p = k) (he : rField p = e) (hf : place op 26 ||| place (bit1 k) 23 ||| place e 16 = f) :
    p &&& 0xFC870000#32 = f := by
  subst h hk he hf
  apply pair_bits
  intro i hi
  rw [BitVec.getLsbD_or, BitVec.getLsbD_or, getLsbD_place, getLsbD_place, getLsbD_place, BitVec.getLsbD_and]
  interval_cases i <;> simp [opField, kBit, rField]

/-! ### The instructions -/

theorem EncodeMatchesTable.a (reg : RegRef) (adr : Address) : EncodeMatchesTable.Statement (.a reg adr) :=
  fun _ => masked_opk _ _ _ _ (opField_encodeIA _ _ _ _) (kBit_encodeIA _ _ _ _) rfl

theorem EncodeMatchesTable.aa (reg : RegRef) (adr : Address) : EncodeMatchesTable.Statement (.aa reg adr) :=
  fun _ => masked_opk _ _ _ _ (opField_encodeIA _ _ _ _) (kBit_encodeIA _ _ _ _) rfl

theorem EncodeMatchesTable.bl (reg : RegRef) (adr : Address) : EncodeMatchesTable.Statement (.bl reg adr) :=
  fun _ => masked_opk _ _ _ _ (opField_encodeIA _ _ _ _) (kBit_encodeIA _ _ _ _) rfl

theorem EncodeMatchesTable.starBL (reg : RegRef) (adr : Address) : EncodeMatchesTable.Statement (.starBL reg adr) :=
  fun _ => masked_opk _ _ _ _ (opField_encodeIA _ _ _ _) (kBit_encodeIA _ _ _ _) rfl

theorem EncodeMatchesTable.cr (reg : RegRef) (adr : Address) : EncodeMatchesTable.Statement (.cr reg adr) :=
  fun _ => masked_opk _ _ _ _ (opField_encodeIA _ _ _ _) (kBit_encodeIA _ _ _ _) rfl

theorem EncodeMatchesTable.cra (reg : RegRef) (adr : Address) : EncodeMatchesTable.Statement (.cra reg adr) :=
  fun _ => masked_opk _ _ _ _ (opField_encodeIA _ _ _ _) (kBit_encodeIA _ _ _ _) rfl

theorem EncodeMatchesTable.crl (reg : RegRef) (adr : Address) : EncodeMatchesTable.Statement (.crl reg adr) :=
  fun _ => masked_opk _ _ _ _ (opField_encodeIA _ _ _ _) (kBit_encodeIA _ _ _ _) rfl

theorem EncodeMatchesTable.crla (reg : RegRef) (adr : Address) : EncodeMatchesTable.Statement (.crla reg adr) :=
  fun _ => masked_opk _ _ _ _ (opField_encodeIA _ _ _ _) (kBit_encodeIA _ _ _ _) rfl

theorem EncodeMatchesTable.d (reg : RegRef) (adr : Address) : EncodeMatchesTable.Statement (.d reg adr) :=
  fun _ => masked_opk _ _ _ _ (opField_encodeIA _ _ _ _) (kBit_encodeIA _ _ _ _) rfl

theorem EncodeMatchesTable.da (reg : RegRef) (adr : Address) : EncodeMatchesTable.Statement (.da reg adr) :=
  fun _ => masked_opk _ _ _ _ (opField_encodeIA _ _ _ _) (kBit_encodeIA _ _ _ _) rfl

theorem EncodeMatchesTable.dad (reg : RegRef) (adr : Address) : EncodeMatchesTable.Statement (.dad reg adr) :=
  fun _ => masked_opk _ _ _ _ (opField_encodeIA _ _ _ _) (kBit_encodeIA _ _ _ _) rfl

theorem EncodeMatchesTable.dlax (reg : RegRef) (adr : Address) : EncodeMatchesTable.Statement (.dlax reg adr) :=
  fun _ => masked_opk _ _ _ _ (opField_encodeIA _ _ _ _) (kBit_encodeIA _ _ _ _) rfl

theorem EncodeMatchesTable.drax (reg : RegRef) (adr : Address) : EncodeMatchesTable.Statement (.drax reg adr) :=
  fun _ => masked_opk _ _ _ _ (opField_encodeIA _ _ _ _) (kBit_encodeIA _ _ _ _) rfl

theorem EncodeMatchesTable.drlx (reg : RegRef) (adr : Address) : EncodeMatchesTable.Statement (.drlx reg adr) :=
  fun _ => masked_opk _ _ _ _ (opField_encodeIA _ _ _ _) (kBit_encodeIA _ _ _ _) rfl

theorem EncodeMatchesTable.drrx (reg : RegRef) (adr : Address) : EncodeMatchesTable.Statement (.drrx reg adr) :=
  fun _ => masked_opk _ _ _ _ (opField_encodeIA _ _ _ _) (kBit_encodeIA _ _ _ _) rfl

theorem EncodeMatchesTable.ds (reg : RegRef) (adr : Address) : EncodeMatchesTable.Statement (.ds reg adr) :=
  fun _ => masked_opk _ _ _ _ (opField_encodeIA _ _ _ _) (kBit_encodeIA _ _ _ _) rfl

theorem EncodeMatchesTable.l (reg : RegRef) (adr : Address) : EncodeMatchesTable.Statement (.l reg adr) :=
  fun _ => masked_opk _ _ _ _ (opField_encodeIA _ _ _ _) (kBit_encodeIA _ _ _ _) rfl

theorem EncodeMatchesTable.la (reg : RegRef) (adr : Address) : EncodeMatchesTable.Statement (.la reg adr) :=
  fun _ => masked_opk _ _ _ _ (opField_encodeIA _ _ _ _) (kBit_encodeIA _ _ _ _) rfl

theorem EncodeMatchesTable.lot (reg : RegRef) (adr : Address) : EncodeMatchesTable.Statement (.lot reg adr) :=
  fun _ => masked_opk _ _ _ _ (opField_encodeIA _ _ _ _) (kBit_encodeIA _ _ _ _) rfl

theorem EncodeMatchesTable.lota (reg : RegRef) (adr : Address) : EncodeMatchesTable.Statement (.lota reg adr) :=
  fun _ => masked_opk _ _ _ _ (opField_encodeIA _ _ _ _) (kBit_encodeIA _ _ _ _) rfl

theorem EncodeMatchesTable.m (reg : RegRef) (adr : Address) : EncodeMatchesTable.Statement (.m reg adr) :=
  fun _ => masked_opk _ _ _ _ (opField_encodeIA _ _ _ _) (kBit_encodeIA _ _ _ _) rfl

theorem EncodeMatchesTable.ma (reg : RegRef) (adr : Address) : EncodeMatchesTable.Statement (.ma reg adr) :=
  fun _ => masked_opk _ _ _ _ (opField_encodeIA _ _ _ _) (kBit_encodeIA _ _ _ _) rfl

theorem EncodeMatchesTable.mlax (reg : RegRef) (adr : Address) : EncodeMatchesTable.Statement (.mlax reg adr) :=
  fun _ => masked_opk _ _ _ _ (opField_encodeIA _ _ _ _) (kBit_encodeIA _ _ _ _) rfl

theorem EncodeMatchesTable.mrax (reg : RegRef) (adr : Address) : EncodeMatchesTable.Statement (.mrax reg adr) :=
  fun _ => masked_opk _ _ _ _ (opField_encodeIA _ _ _ _) (kBit_encodeIA _ _ _ _) rfl

theorem EncodeMatchesTable.mrrx (reg : RegRef) (adr : Address) : EncodeMatchesTable.Statement (.mrrx reg adr) :=
  fun _ => masked_opk _ _ _ _ (opField_encodeIA _ _ _ _) (kBit_encodeIA _ _ _ _) rfl

theorem EncodeMatchesTable.n (reg : RegRef) (adr : Address) : EncodeMatchesTable.Statement (.n reg adr) :=
  fun _ => masked_opk _ _ _ _ (opField_encodeIA _ _ _ _) (kBit_encodeIA _ _ _ _) rfl

theorem EncodeMatchesTable.na (reg : RegRef) (adr : Address) : EncodeMatchesTable.Statement (.na reg adr) :=
  fun _ => masked_opk _ _ _ _ (opField_encodeIA _ _ _ _) (kBit_encodeIA _ _ _ _) rfl

theorem EncodeMatchesTable.or (reg : RegRef) (adr : Address) : EncodeMatchesTable.Statement (.or reg adr) :=
  fun _ => masked_opk _ _ _ _ (opField_encodeIA _ _ _ _) (kBit_encodeIA _ _ _ _) rfl

theorem EncodeMatchesTable.ora (reg : RegRef) (adr : Address) : EncodeMatchesTable.Statement (.ora reg adr) :=
  fun _ => masked_opk _ _ _ _ (opField_encodeIA _ _ _ _) (kBit_encodeIA _ _ _ _) rfl

theorem EncodeMatchesTable.s (reg : RegRef) (adr : Address) : EncodeMatchesTable.Statement (.s reg adr) :=
  fun _ => masked_opk _ _ _ _ (opField_encodeIA _ _ _ _) (kBit_encodeIA _ _ _ _) rfl

theorem EncodeMatchesTable.sa (reg : RegRef) (adr : Address) : EncodeMatchesTable.Statement (.sa reg adr) :=
  fun _ => masked_opk _ _ _ _ (opField_encodeIA _ _ _ _) (kBit_encodeIA _ _ _ _) rfl

theorem EncodeMatchesTable.sat (reg : RegRef) (adr : Address) : EncodeMatchesTable.Statement (.sat reg adr) :=
  fun _ => masked_opk _ _ _ _ (opField_encodeIA _ _ _ _) (kBit_encodeIA _ _ _ _) rfl

theorem EncodeMatchesTable.st (reg : RegRef) (adr : Address) : EncodeMatchesTable.Statement (.st reg adr) :=
  fun _ => masked_opk _ _ _ _ (opField_encodeIA _ _ _ _) (kBit_encodeIA _ _ _ _) rfl

theorem EncodeMatchesTable.xor (reg : RegRef) (adr : Address) : EncodeMatchesTable.Statement (.xor reg adr) :=
  fun _ => masked_opk _ _ _ _ (opField_encodeIA _ _ _ _) (kBit_encodeIA _ _ _ _) rfl

theorem EncodeMatchesTable.xora (reg : RegRef) (adr : Address) : EncodeMatchesTable.Statement (.xora reg adr) :=
  fun _ => masked_opk _ _ _ _ (opField_encodeIA _ _ _ _) (kBit_encodeIA _ _ _ _) rfl

theorem EncodeMatchesTable.bc (bit : Fin 16) (adr : Address) : EncodeMatchesTable.Statement (.bc bit adr) :=
  fun _ => masked_opk _ _ _ _ (opField_encodeGroup1 _ _ _ _) (kBit_encodeGroup1 _ _ _ _) rfl

theorem EncodeMatchesTable.starBC (bit : Fin 16) (adr : Address) : EncodeMatchesTable.Statement (.starBC bit adr) :=
  fun _ => masked_opk _ _ _ _ (opField_encodeGroup1 _ _ _ _) (kBit_encodeGroup1 _ _ _ _) rfl

theorem EncodeMatchesTable.dla (count : Nat) (adr : Address) : EncodeMatchesTable.Statement (.dla count adr) :=
  fun _ => masked_opk _ _ _ _ (opField_encodeGroup1 _ _ _ _) (kBit_encodeGroup1 _ _ _ _) rfl

theorem EncodeMatchesTable.dra (count : Nat) (adr : Address) : EncodeMatchesTable.Statement (.dra count adr) :=
  fun _ => masked_opk _ _ _ _ (opField_encodeGroup1 _ _ _ _) (kBit_encodeGroup1 _ _ _ _) rfl

theorem EncodeMatchesTable.drl (count : Nat) (adr : Address) : EncodeMatchesTable.Statement (.drl count adr) :=
  fun _ => masked_opk _ _ _ _ (opField_encodeGroup1 _ _ _ _) (kBit_encodeGroup1 _ _ _ _) rfl

theorem EncodeMatchesTable.drr (count : Nat) (adr : Address) : EncodeMatchesTable.Statement (.drr count adr) :=
  fun _ => masked_opk _ _ _ _ (opField_encodeGroup1 _ _ _ _) (kBit_encodeGroup1 _ _ _ _) rfl

theorem EncodeMatchesTable.mla (count : Nat) (adr : Address) : EncodeMatchesTable.Statement (.mla count adr) :=
  fun _ => masked_opk _ _ _ _ (opField_encodeGroup1 _ _ _ _) (kBit_encodeGroup1 _ _ _ _) rfl

theorem EncodeMatchesTable.mra (count : Nat) (adr : Address) : EncodeMatchesTable.Statement (.mra count adr) :=
  fun _ => masked_opk _ _ _ _ (opField_encodeGroup1 _ _ _ _) (kBit_encodeGroup1 _ _ _ _) rfl

theorem EncodeMatchesTable.mrr (count : Nat) (adr : Address) : EncodeMatchesTable.Statement (.mrr count adr) :=
  fun _ => masked_opk _ _ _ _ (opField_encodeGroup1 _ _ _ _) (kBit_encodeGroup1 _ _ _ _) rfl

theorem EncodeMatchesTable.b (rq : Bool) (adr : Address) : EncodeMatchesTable.Statement (.b rq adr) :=
  fun _ => masked_opke _ _ _ _ _ (opField_encodeIC _ _ _ _ _) (kBit_encodeIC _ _ _ _ _) (rField_encodeIC _ _ _ _ _) rfl

theorem EncodeMatchesTable.starB (rq : Bool) (adr : Address) : EncodeMatchesTable.Statement (.starB rq adr) :=
  fun _ => masked_opke _ _ _ _ _ (opField_encodeIC _ _ _ _ _) (kBit_encodeIC _ _ _ _ _) (rField_encodeIC _ _ _ _ _) rfl

theorem EncodeMatchesTable.lds (rq : Bool) (adr : Address) : EncodeMatchesTable.Statement (.lds rq adr) :=
  fun _ => masked_opke _ _ _ _ _ (opField_encodeIC _ _ _ _ _) (kBit_encodeIC _ _ _ _ _) (rField_encodeIC _ _ _ _ _) rfl

theorem EncodeMatchesTable.nop : EncodeMatchesTable.Statement (.nop) :=
  fun _ => masked_opke _ _ _ _ _ (opField_encodeIC _ _ _ _ _) (kBit_encodeIC _ _ _ _ _) (rField_encodeIC _ _ _ _ _) rfl

theorem EncodeMatchesTable.ss (rq : Bool) (adr : Address) : EncodeMatchesTable.Statement (.ss rq adr) :=
  fun _ => masked_opke _ _ _ _ _ (opField_encodeIC _ _ _ _ _) (kBit_encodeIC _ _ _ _ _) (rField_encodeIC _ _ _ _ _) rfl

theorem EncodeMatchesTable.ssb (rq : Bool) (adr : Address) : EncodeMatchesTable.Statement (.ssb rq adr) :=
  fun _ => masked_opke _ _ _ _ _ (opField_encodeIC _ _ _ _ _) (kBit_encodeIC _ _ _ _ _) (rField_encodeIC _ _ _ _ _) rfl

theorem EncodeMatchesTable.sxbs (rq : Bool) (adr : Address) : EncodeMatchesTable.Statement (.sxbs rq adr) :=
  fun _ => masked_opke _ _ _ _ _ (opField_encodeIC _ _ _ _ _) (kBit_encodeIC _ _ _ _ _) (rField_encodeIC _ _ _ _ _) rfl

theorem EncodeMatchesTable.sxbw (rq : Bool) (adr : Address) : EncodeMatchesTable.Statement (.sxbw rq adr) :=
  fun _ => masked_opke _ _ _ _ _ (opField_encodeIC _ _ _ _ _) (kBit_encodeIC _ _ _ _ _) (rField_encodeIC _ _ _ _ _) rfl

theorem EncodeMatchesTable.sxs (rq : Bool) (adr : Address) : EncodeMatchesTable.Statement (.sxs rq adr) :=
  fun _ => masked_opke _ _ _ _ _ (opField_encodeIC _ _ _ _ _) (kBit_encodeIC _ _ _ _ _) (rField_encodeIC _ _ _ _ _) rfl

theorem EncodeMatchesTable.sxw (rq : Bool) (adr : Address) : EncodeMatchesTable.Statement (.sxw rq adr) :=
  fun _ => masked_opke _ _ _ _ _ (opField_encodeIC _ _ _ _ _) (kBit_encodeIC _ _ _ _ _) (rField_encodeIC _ _ _ _ _) rfl

theorem EncodeMatchesTable.xs : EncodeMatchesTable.Statement (.xs) :=
  fun _ => masked_opke _ _ _ _ _ (opField_encodeIC _ _ _ _ _) (kBit_encodeIC _ _ _ _ _) (rField_encodeIC _ _ _ _ _) rfl

theorem EncodeMatchesTable.xsb (rq : Bool) (adr : Address) : EncodeMatchesTable.Statement (.xsb rq adr) :=
  fun _ => masked_opke _ _ _ _ _ (opField_encodeIC _ _ _ _ _) (kBit_encodeIC _ _ _ _ _) (rField_encodeIC _ _ _ _ _) rfl

theorem EncodeMatchesTable.starXSB (rq : Bool) (adr : Address) : EncodeMatchesTable.Statement (.starXSB rq adr) :=
  fun _ => masked_opke _ _ _ _ _ (opField_encodeIC _ _ _ _ _) (kBit_encodeIC _ _ _ _ _) (rField_encodeIC _ _ _ _ _) rfl

theorem EncodeMatchesTable.xw : EncodeMatchesTable.Statement (.xw) :=
  fun _ => masked_opke _ _ _ _ _ (opField_encodeIC _ _ _ _ _) (kBit_encodeIC _ _ _ _ _) (rField_encodeIC _ _ _ _ _) rfl

theorem EncodeMatchesTable.xwb (rq : Bool) (adr : Address) : EncodeMatchesTable.Statement (.xwb rq adr) :=
  fun _ => masked_opke _ _ _ _ _ (opField_encodeIC _ _ _ _ _) (kBit_encodeIC _ _ _ _ _) (rField_encodeIC _ _ _ _ _) rfl

theorem EncodeMatchesTable.starXWB (rq : Bool) (adr : Address) : EncodeMatchesTable.Statement (.starXWB rq adr) :=
  fun _ => masked_opke _ _ _ _ _ (opField_encodeIC _ _ _ _ _) (kBit_encodeIC _ _ _ _ _) (rField_encodeIC _ _ _ _ _) rfl

theorem EncodeMatchesTable.arb (rq : Bool) (xr : RegNo) (addend : BitVec 4) (n : Word) :
    EncodeMatchesTable.Statement (.arb rq xr addend n) :=
  fun _ => masked_op _ _ _ (opField_encodeID _ _ _ _) rfl

theorem EncodeMatchesTable.adac (aq : BitVec 10) (n : Word) : EncodeMatchesTable.Statement (.adac aq n) :=
  fun _ => masked_op _ _ _ (opField_encodeIE _ _) rfl

theorem EncodeMatchesTable.stps (adr : Address) : EncodeMatchesTable.Statement (.stps adr) :=
  fun _ => masked_opk _ _ _ _ (opField_encodeGroup1 _ _ _ _) (kBit_encodeGroup1 _ _ _ _) rfl

theorem EncodeMatchesTable.cm (op1 op2 : BaseRef) : EncodeMatchesTable.Statement (.cm op1 op2) :=
  fun _ => masked_op _ _ _ (opField_encodeII _ _ _ _ _) rfl

theorem EncodeMatchesTable.cml (op1 op2 : BaseRef) : EncodeMatchesTable.Statement (.cml op1 op2) :=
  fun _ => masked_op _ _ _ (opField_encodeII _ _ _ _ _) rfl

theorem EncodeMatchesTable.mov (op1 op2 : BaseRef) : EncodeMatchesTable.Statement (.mov op1 op2) :=
  fun _ => masked_op _ _ _ (opField_encodeII _ _ _ _ _) rfl

theorem EncodeMatchesTable.brrl (link : RegNo) (target : BaseRef) :
    EncodeMatchesTable.Statement (.brrl link target) :=
  fun _ => masked_op _ _ _ (opField_encodeBrrl _ _ _) rfl

theorem EncodeMatchesTable.ami (op1 : BaseRef) (value : BitVec 13) : EncodeMatchesTable.Statement (.ami op1 value) :=
  fun _ => masked_op _ _ _ (opField_encodeIIC _ _ _) rfl

theorem EncodeMatchesTable.cmi (op1 : BaseRef) (value : BitVec 13) : EncodeMatchesTable.Statement (.cmi op1 value) :=
  fun _ => masked_op _ _ _ (opField_encodeIIC _ _ _) rfl

theorem EncodeMatchesTable.setf (am : Bool) (flag : FlagRef) (v1 : Bool) :
    EncodeMatchesTable.Statement (.setf am flag v1) :=
  fun _ => masked_op _ _ _ (opField_encodeIII _ _ _ _ _ _) rfl

theorem EncodeMatchesTable.xfne (am : Bool) (flag : FlagRef) (v1 : Bool) :
    EncodeMatchesTable.Statement (.xfne am flag v1) :=
  fun _ => masked_op _ _ _ (opField_encodeIII _ _ _ _ _ _) rfl

theorem EncodeMatchesTable.bfne (am : Bool) (flag : FlagRef) (v1 : Bool) (n : BitVec 10) :
    EncodeMatchesTable.Statement (.bfne am flag v1 n) :=
  fun _ => masked_op _ _ _ (opField_encodeIII _ _ _ _ _ _) rfl

theorem EncodeMatchesTable.setb (am : Bool) (m : BitVec 10) (v1 : Bool) :
    EncodeMatchesTable.Statement (.setb am m v1) :=
  fun _ => masked_op _ _ _ (opField_encodeIII _ _ _ _ _ _) rfl

theorem EncodeMatchesTable.xbne (am : Bool) (m : BitVec 10) (v1 : Bool) :
    EncodeMatchesTable.Statement (.xbne am m v1) :=
  fun _ => masked_op _ _ _ (opField_encodeIII _ _ _ _ _ _) rfl

theorem EncodeMatchesTable.bbne (am : Bool) (m : BitVec 10) (v1 : Bool) (n : BitVec 10) :
    EncodeMatchesTable.Statement (.bbne am m v1 n) :=
  fun _ => masked_op _ _ _ (opField_encodeIII _ _ _ _ _ _) rfl

theorem EncodeMatchesTable.tsbx (am : Bool) (m : BitVec 10) (v1 : Bool) (n : BitVec 10) (ob : Bool) :
    EncodeMatchesTable.Statement (.tsbx am m v1 n ob) :=
  fun _ => masked_op _ _ _ (opField_encodeIII _ _ _ _ _ _) rfl

theorem EncodeMatchesTable.ldcr (am : Bool) (m : BitVec 10) (width : Nat) (n : BitVec 10) :
    EncodeMatchesTable.Statement (.ldcr am m width n) :=
  fun _ => masked_op _ _ _ (opField_encodeIII _ _ _ _ _ _) rfl

theorem EncodeMatchesTable.stcr (am : Bool) (m : BitVec 10) (width : Nat) (n : BitVec 10) :
    EncodeMatchesTable.Statement (.stcr am m width n) :=
  fun _ => masked_op _ _ _ (opField_encodeIII _ _ _ _ _ _) rfl

end Sys2Proof.Laws
end

