-- ==== Sys2Proof/Laws/Suppressed.lean ====
section
/-! SUPPORT. What protection does to a store, said once: a suppressed word raises MV and stays as it was, and the ways of
writing a result do the rest as ever (R70, D10). -/

namespace Sys2Proof.Machine

variable (s : State)

/-! ### One write, blocked or not -/

theorem State.write_blocked (a v : Word) (h : s.blocked a = true) : s.write a v = s.raiseInternal .mv := by
  simp [State.write, h]

theorem State.write_st (a v : Word) :
    (s.write a v).cpu.st = if s.blocked a then (s.raiseInternal .mv).cpu.st else s.cpu.st := by
  unfold State.write
  split <;> simp

theorem State.write_internalPending (a v : Word) :
    (s.write a v).cpu.internalPending =
      if s.blocked a then (s.raiseInternal .mv).cpu.internalPending else s.cpu.internalPending := by
  unfold State.write
  split <;> simp

@[simp] theorem State.blocked_write (a v b : Word) : (s.write a v).blocked b = s.blocked b :=
  State.blocked_congr (by simp) (by simp) b

/-- Where a word can be stored to, it can be whatever cause has been raised. -/
@[simp] theorem State.storable_raiseInternal (c : Cause) (b : Word) : (s.raiseInternal c).storable b = s.storable b := by
  simp [State.storable, State.present, State.installed, State.blocked, State.isProtected]

theorem State.storable_of_blocked (a : Word) (h : s.blocked a = true) : s.storable a = false := by
  simp [State.storable, h]

/-- A write that is not possible changes no word and no check bits. -/
theorem State.write_not_storable (a v : Word) (h : s.storable a = false) :
    (∀ b, (s.write a v).peek b = s.peek b) ∧ (s.write a v).checkFails = s.checkFails := by
  unfold State.write
  split
  · simp
  · rename_i hb
    have hp : s.present a = false := by simpa [State.storable, hb] using h
    unfold State.present at hp
    unfold State.store
    cases ha : placeOf a with
    | register i => rw [ha] at hp; cases hp
    | memory k =>
      rw [ha] at hp
      have hp : s.installed k = false := hp
      simp [hp]

/-- The word at every address after one write. -/
theorem State.peek_write (a v b : Word) :
    (s.write a v).peek b = if b = a ∧ s.storable a = true then v else s.peek b := by
  cases h : s.storable a with
  | true => simp [s.peek_write_storable _ _ _ h]
  | false => simp [(s.write_not_storable a v h).1]

theorem State.write_failsStorable (a v : Word) (l : List Word) (h : s.storable a = true → a ∈ l) :
    (s.write a v).checkFails.filter (outsideWords l) = s.checkFails.filter (outsideWords l) := by
  cases hs : s.storable a with
  | true => exact s.write_failsOutside _ _ _ (h hs)
  | false => rw [(s.write_not_storable a v hs).2]

/-- Raising a cause twice is raising it once. -/
theorem State.raiseInternal_again {t : State} (c : Cause) (hs : t.cpu.st = (s.raiseInternal c).cpu.st)
    (hp : t.cpu.internalPending = (s.raiseInternal c).cpu.internalPending) (hc : t.config = s.config) :
    (t.raiseInternal c).cpu.st = (s.raiseInternal c).cpu.st ∧
    (t.raiseInternal c).cpu.internalPending = (s.raiseInternal c).cpu.internalPending := by
  constructor
  · apply word_ext
    intro j hj
    rw [t.raiseInternal_bit c j hj, hs, s.raiseInternal_bit c j hj]
    split <;> rfl
  · have hb : bit t.cpu.st bitII = bit s.cpu.st bitII := by
      rw [hs, s.raiseInternal_bit c bitII (by decide)]
      cases c <;> rfl
    rw [t.raiseInternal_internalPending, hp, s.raiseInternal_internalPending, hb, hc]
    split <;> rfl

/-! ### Two words of which at least one is blocked -/

/-- A double-length write of which at least one word is suppressed: MV is raised, and the other word is written. -/
theorem State.write2_suppressed (a : Word) (v : DWord) (h : s.blocked a = true ∨ s.blocked (a + 1#16) = true) :
    (s.storable a = true → (s.write2 a v).peek a = highWord v) ∧
    (s.storable (a + 1#16) = true → (s.write2 a v).peek (a + 1#16) = lowWord v) ∧
    SameCounters s (s.write2 a v) ∧ SameDevices s (s.write2 a v) ∧
    Frame (s.raiseInternal .mv) (s.write2 a v) ([a, a + 1#16].filter s.storable) 0#16 := by
  have hst : (s.write2 a v).cpu.st = (s.raiseInternal .mv).cpu.st ∧
      (s.write2 a v).cpu.internalPending = (s.raiseInternal .mv).cpu.internalPending := by
    unfold State.write2
    have e1 := s.write_st a (highWord v)
    have e2 := s.write_internalPending a (highWord v)
    have e3 := (s.write a (highWord v)).write_st (a + 1#16) (lowWord v)
    have e4 := (s.write a (highWord v)).write_internalPending (a + 1#16) (lowWord v)
    cases hb : s.blocked a with
    | true =>
      simp only [hb, if_true] at e1 e2
      have r := s.raiseInternal_again .mv e1 e2 (by simp)
      cases hb2 : s.blocked (a + 1#16) <;> simp [hb2] at e3 e4 <;> rw [e3, e4]
      · exact ⟨e1, e2⟩
      · exact r
    | false =>
      have hb2 : s.blocked (a + 1#16) = true := by simpa [hb] using h
      rw [hb] at e1 e2
      simp only [s.blocked_write, hb2, if_true] at e3 e4
      rw [e3, e4, State.raiseInternal_st, State.raiseInternal_st, State.raiseInternal_internalPending,
        State.raiseInternal_internalPending, e1, e2]
      simp
  have hpk : ∀ b, (s.write2 a v).peek b =
      if b = a + 1#16 ∧ s.storable (a + 1#16) = true then lowWord v
      else if b = a ∧ s.storable a = true then highWord v else s.peek b := by
    intro b
    unfold State.write2
    rw [State.peek_write, s.peek_write, State.storable_write]
  refine ⟨fun h1 => ?_, fun h2 => ?_, by simp [SameCounters, State.write2], by simp [SameDevices, State.write2], ?_⟩
  · rw [hpk, if_neg (fun hc => word_ne_succ a hc.1), if_pos ⟨rfl, h1⟩]
  · rw [hpk, if_pos ⟨rfl, h2⟩]
  · constructor
    · intro b hb
      have hb : (b = a → s.storable b = false) ∧ (b = a + 1#16 → s.storable b = false) := by
        simpa [List.mem_filter, or_imp] using hb
      rw [hpk, if_neg (fun hc => by simp [hc.1 ▸ hb.2 hc.1] at hc), if_neg (fun hc => by simp [hc.1 ▸ hb.1 hc.1] at hc)]
      simp
    · rw [hst.1]
    · simp [State.write2]
    · exact hst.2
    · unfold State.write2
      rw [State.write_failsStorable _ _ _ _ (by simp [List.mem_filter]), State.write_failsStorable _ _ _ _ (by simp [List.mem_filter])]
      simp
    · intro k hk
      simpa using s.write2_checks a v k hk
    all_goals simp [State.write2]

/-! ### The ways a result is written -/

theorem suppressesResult (e a v : Word) (h : s.blocked a = true) :
    SuppressesStore s (.next ((s.setIb e).storeResult a v)) v maskCB (bit s.cpu.st bitOI) := by
  have h' : (s.setIb e).blocked a = true := h
  refine ⟨_, rfl, comparisonIs_withComparison _ _ _ rfl, ?_, ?_, ?_, ?_⟩
  all_goals simp only [State.storeResult, State.write_blocked _ _ _ h']
  · rw [State.setCB_bit _ _ _ (by decide), State.raiseInternal_bit _ _ _ (by decide)]
    rfl
  · simp [SameCounters]
  · simp [SameDevices]
  · apply Frame.of_fields <;> try simp [State.raiseInternal_internalPending]
    rw [State.setCB_st, withComparison_masked _ _ _ (by decide), State.raiseInternal_st, State.raiseInternal_st]
    rfl

theorem suppressesShift (e a v : Word) (ov : Bool) (h : s.blocked a = true) :
    SuppressesStore s (.next ((s.setIb e).storeShift a v ov)) v (maskOI ||| maskCB) ov := by
  have h' : (s.setIb e).blocked a = true := h
  refine ⟨_, rfl, comparisonIs_withComparison _ _ _ rfl, ?_, ?_, ?_, ?_⟩
  all_goals simp only [State.storeShift, State.write_blocked _ _ _ h']
  · rw [State.setCB_bit _ _ _ (by decide), State.setOverflow_bit _ _ _ (by decide)]
    rfl
  · simp [SameCounters]
  · simp [SameDevices]
  · apply Frame.of_fields <;> try simp [State.raiseInternal_internalPending]
    rw [State.setCB_st, withComparison_masked _ _ _ (by decide), State.setOverflow_st,
      setBit_masked _ _ _ _ (by decide) (by decide), State.raiseInternal_st, State.raiseInternal_st]
    rfl

/-- The frame of a suppressed write does not see `IB`. -/
theorem Frame.of_setIb_raise {t : State} {l : List Word} {m : Word} {e : Word}
    (h : Frame ((s.setIb e).raiseInternal .mv) t l m) : Frame (s.raiseInternal .mv) t l m := by
  obtain ⟨h1, h2, h3, h4, h5, h6, h7, h8, h9, h10, h11⟩ := h
  simp only [State.peek_raiseInternal, State.raiseInternal_st, State.raiseInternal_ia, State.raiseInternal_checkFails,
    State.raiseInternal_internalPending, State.raiseInternal_config, State.raiseInternal_panel,
    State.raiseInternal_running, State.raiseInternal_powered, State.raiseInternal_schedule] at *
  constructor <;> simp only [State.peek_raiseInternal, State.raiseInternal_st, State.raiseInternal_ia,
    State.raiseInternal_checkFails, State.raiseInternal_internalPending, State.raiseInternal_config,
    State.raiseInternal_panel, State.raiseInternal_running, State.raiseInternal_powered, State.raiseInternal_schedule] <;>
    assumption

theorem suppressesResult2 (e a : Word) (v : DWord) (h : s.blocked a = true ∨ s.blocked (a + 1#16) = true) :
    SuppressesStore2 s (.next ((s.setIb e).storeResult2 a v)) a v maskCB (bit s.cpu.st bitOI) := by
  obtain ⟨f1, f2, f3, f4, f5⟩ := (s.setIb e).write2_suppressed a v h
  refine ⟨_, rfl, f1, f2, comparisonIs_withComparison _ _ _ rfl, ?_, f3, f4, ?_⟩
  · have hb := bit_of_masked f5.status (i := bitOI) (by decide) (by decide)
    simp only [State.storeResult2]
    rw [State.setCB_bit _ _ _ (by decide)]
    refine Eq.trans ?_ (hb.trans ?_)
    · rfl
    · rw [State.raiseInternal_bit _ _ _ (by decide)]; rfl
  · refine Frame.of_setIb_raise s (e := e) ?_
    refine { f5 with status := ?_ }
    show withComparison ((s.setIb e).write2 a v).cpu.st _ &&& _ = _
    rw [withComparison_masked _ _ _ (by decide)]
    exact masked_ext (fun i hi _ => bit_of_masked f5.status hi (by simp [bit]))

theorem suppressesShift2 (e a : Word) (v : DWord) (ov : Bool) (h : s.blocked a = true ∨ s.blocked (a + 1#16) = true) :
    SuppressesStore2 s (.next ((s.setIb e).storeShift2 a v ov)) a v (maskOI ||| maskCB) ov := by
  obtain ⟨f1, f2, f3, f4, f5⟩ := (s.setIb e).write2_suppressed a v h
  refine ⟨_, rfl, f1, f2, comparisonIs_withComparison _ _ _ rfl, ?_, f3, f4, ?_⟩
  · simp only [State.storeShift2]
    rw [State.setCB_bit _ _ _ (by decide), State.setOverflow_bit _ _ _ (by decide)]
    rfl
  · refine Frame.of_setIb_raise s (e := e) ?_
    refine { f5 with status := ?_ }
    show withComparison (setBit ((s.setIb e).write2 a v).cpu.st _ _) _ &&& _ = _
    rw [withComparison_masked _ _ _ (by decide), setBit_masked _ _ _ _ (by decide) (by decide)]
    exact masked_ext (fun i hi _ => bit_of_masked f5.status hi (by simp [bit]))

/-- A status block of which at least one word is suppressed; `ST` is stored with the MV that a suppressed first word raised
(log 35). -/
theorem State.storeStatusBlock_suppressed (ea c : Word) (h : s.blocked ea = true ∨ s.blocked (ea + 1#16) = true) :
    (s.storable ea = true → (s.storeStatusBlock ea c).peek ea = c) ∧
    (s.storable (ea + 1#16) = true → (s.storeStatusBlock ea c).peek (ea + 1#16) =
      (if s.blocked ea then s.cpu.st ||| 0x0400#16 else s.cpu.st)) ∧
    SameCounters s (s.storeStatusBlock ea c) ∧ SameDevices s (s.storeStatusBlock ea c) ∧
    Frame (s.raiseInternal .mv) (s.storeStatusBlock ea c) ([ea, ea + 1#16].filter s.storable) 0#16 := by
  have e : s.storeStatusBlock ea c = s.write2 ea (joinWords c (s.write ea c).cpu.st) := by
    simp [State.storeStatusBlock, State.write2]
  have hw : (s.write ea c).cpu.st = if s.blocked ea then s.cpu.st ||| 0x0400#16 else s.cpu.st := by
    rw [s.write_st, s.raiseInternal_st]
    rfl
  rw [e, ← hw]
  have := s.write2_suppressed ea (joinWords c (s.write ea c).cpu.st) h
  rwa [highWord_joinWords, lowWord_joinWords] at this

end Sys2Proof.Machine
end

