-- ==== Sys2Proof/Tests/Slice0.lean ====
section
/-! SUPPORT. The model's own tests: refused ill-formed terms, decoded words, single steps, and for every statement of
Certificates/Slice0/Obligations.lean with hypotheses a state and operands that meet them (`witness_<name>`). -/

namespace Sys2Proof.Machine

/-! ### Helpers -/

/-- A machine in RUN with these counters, status, registers (by place in the file) and words; the rest as after reset. -/
def start (pc ec st : Word) (regs : List (FileIndex × Word)) (mem : List (Word × Word)) : State :=
  let s : State :=
    { State.reset with
      cpu := { State.reset.cpu with pc := pc, ec := ec, st := st }
      panel := { State.reset.panel with modeRun := true }
      running := true }
  mem.foldl (fun s r => s.store r.1 r.2) (regs.foldl (fun s r => s.setReg r.1 r.2) s)

/-- `PC`, `EC`, `ST` and the words at these addresses after a step. -/
def seen (addresses : List Word) : Result → Option (Word × Word × Word × List Word)
  | .next t => some (t.cpu.pc, t.cpu.ec, t.cpu.st, addresses.map t.peek)
  | .fault _ => none
  | .refused _ => none

/-- The words at these addresses after a step. -/
def words (addresses : List Word) : Result → Option (List Word)
  | .next t => some (addresses.map t.peek)
  | .fault _ => none
  | .refused _ => none

/-- The levels of these output lines after a step. -/
def lines (addresses : List CruLine) : Result → Option (List Bool)
  | .next t => some (addresses.map (lineLevel t.cru.outputs))
  | .fault _ => none
  | .refused _ => none

/-- The messages sent to the DMAC after a step. -/
def sent : Result → Option (List (BitVec 10 × Word))
  | .next t => some t.dmac.activations
  | .fault _ => none
  | .refused _ => none

/-- A request is pending after a step. -/
def pends : Result → Option Bool
  | .next t => some t.cpu.internalPending
  | .fault _ => none
  | .refused _ => none

/-- A step answers a next state. -/
def goesOn : Result → Bool
  | .next _ => true
  | .fault _ => false
  | .refused _ => false

/-! ### Ill-formed terms are refused -/

theorem test_wellFormed_shift_zero : Instr.wellFormed (.mla 0 (.direct 0)) = false := by decide
theorem test_wellFormed_shift_seventeen : Instr.wellFormed (.drr 17 (.direct 0)) = false := by decide
theorem test_wellFormed_shift_sixteen : Instr.wellFormed (.dla 16 (.direct 0)) = true := by decide
theorem test_wellFormed_shifts :
    [Instr.dla 0 (.direct 0), .dra 0 (.direct 0), .drl 17 (.direct 0), .drr 0 (.direct 0), .mra 17 (.direct 0),
      .mrr 0 (.direct 0)].map Instr.wellFormed = [false, false, false, false, false, false] := by decide
theorem test_wellFormed_width_zero : Instr.wellFormed (.ldcr false 0 0 0) = false := by decide
theorem test_wellFormed_width_seventeen : Instr.wellFormed (.stcr false 0 17 0) = false := by decide
theorem test_config_960A_too_large : Config.wellFormed { Config.standard with model := .m960A } = false := by decide
theorem test_config_960B_uneven : Config.wellFormed { Config.standard with memWords := 12288 } = false := by decide
theorem test_config_ports : Config.wellFormed { Config.standard with dmacPorts := 9 } = false := by decide
theorem test_config_rom : Config.wellFormed { Config.standard with hasRomLoader := true } = false := by decide
theorem test_config_standard : Config.wellFormed Config.standard = true := by decide

/-! ### Refused and unused encodings (30_encoding.md R120, R121) -/

theorem test_undefined_codes :
    [0x00000000, 0x48000300, 0x6C800300, 0x70030000, 0x78830300, 0x7C800300, 0x8C000000, 0xE4000300, 0xE8800300,
      0xEC800300, 0xF0000000].map (decodeTableWord 32) =
      [none, none, none, none, none, none, none, none, none, none, none] := by decide
theorem test_optional_needs_board :
    decodeFor { Config.standard with hasArithOption := false } 0xCC010300 = none := by decide
theorem test_encode_mov :
    encode Layout.standard (.mov ⟨3, 4⟩ ⟨0x016, 5⟩) = 0x14039416 := by decide
theorem test_encode_bfne :
    encode Layout.standard (.bfne false ⟨4, 1⟩ true 0x01A) = 0x8404181A := by decide
theorem test_withFetchWord_runs :
    seen [0x82] (step (State.reset.withFetchWord 32 0x4482000F)) = some (0x0002, 0, 0x0020, [0x000F]) := by decide

/-! ### Decoding: the words of `spec/95_test_vectors.md` section 2, one for every constructor, read field by field from the
encodings of 30_encoding.md R102 to R119 -/

theorem test_decode_IA_1 :
    [0x4C010300, 0x4C810001, 0x748B0300, 0x77130300, 0xC0010300, 0xC081FFFF, 0xC4010300, 0xC481FFFF, 0xD0010300].map (decodeTableWord 32) =
      [some (.a ⟨false, 1⟩ (.direct 0x0300)),
        some (.aa ⟨false, 1⟩ (.direct 0x0001)),
        some (.bl ⟨true, 3⟩ (.direct 0x0300)),
        some (.starBL ⟨false, 3⟩ (.indirectIndexed 1 0x0300)),
        some (.cr ⟨false, 1⟩ (.direct 0x0300)),
        some (.cra ⟨false, 1⟩ (.direct 0xFFFF)),
        some (.crl ⟨false, 1⟩ (.direct 0x0300)),
        some (.crla ⟨false, 1⟩ (.direct 0xFFFF)),
        some (.d ⟨false, 1⟩ (.direct 0x0300))] := by
  decide

theorem test_decode_IA_2 :
    [0xD081FFFE, 0xE8010300, 0xC8810300, 0xD4810300, 0xD8810300, 0xDC810300, 0xEC010300, 0x47320150, 0x46B20005].map (decodeTableWord 32) =
      [some (.da ⟨false, 1⟩ (.direct 0xFFFE)),
        some (.dad ⟨false, 1⟩ (.direct 0x0300)),
        some (.dlax ⟨false, 1⟩ (.direct 0x0300)),
        some (.drax ⟨false, 1⟩ (.direct 0x0300)),
        some (.drlx ⟨false, 1⟩ (.direct 0x0300)),
        some (.drrx ⟨false, 1⟩ (.direct 0x0300)),
        some (.ds ⟨false, 1⟩ (.direct 0x0300)),
        some (.l ⟨false, 2⟩ (.indirectIndexed 3 0x0150)),
        some (.la ⟨false, 2⟩ (.indexed 3 0x0005))] := by
  decide

theorem test_decode_IA_3 :
    [0x54010300, 0x5481FFFF, 0xCC070300, 0xCC81FFFD, 0x60810300, 0x64810300, 0x68810300, 0x58010300, 0x5880FF00].map (decodeTableWord 32) =
      [some (.lot ⟨false, 1⟩ (.direct 0x0300)),
        some (.lota ⟨false, 1⟩ (.direct 0xFFFF)),
        some (.m ⟨false, 7⟩ (.direct 0x0300)),
        some (.ma ⟨false, 1⟩ (.direct 0xFFFD)),
        some (.mlax ⟨false, 1⟩ (.direct 0x0300)),
        some (.mrax ⟨false, 1⟩ (.direct 0x0300)),
        some (.mrrx ⟨false, 1⟩ (.direct 0x0300)),
        some (.n ⟨false, 1⟩ (.direct 0x0300)),
        some (.na ⟨false, 0⟩ (.direct 0xFF00))] := by
  decide

theorem test_decode_IA_4 :
    [0x5C010300, 0x5C810000, 0x50010300, 0x50810005, 0x6C010300, 0x4881008A, 0x40010300, 0x4080454E].map (decodeTableWord 32) =
      [some (.or ⟨false, 1⟩ (.direct 0x0300)),
        some (.ora ⟨false, 1⟩ (.direct 0x0000)),
        some (.s ⟨false, 1⟩ (.direct 0x0300)),
        some (.sa ⟨false, 1⟩ (.direct 0x0005)),
        some (.sat ⟨false, 1⟩ (.direct 0x0300)),
        some (.st ⟨false, 1⟩ (.direct 0x008A)),
        some (.xor ⟨false, 1⟩ (.direct 0x0300)),
        some (.xora ⟨false, 0⟩ (.direct 0x454E))] := by
  decide

theorem test_decode_IB :
    [0xE0800300, 0xE31D0300, 0xC8000300, 0xD4040300, 0xD8000300, 0xDC000300, 0x60010300, 0x64000300, 0x680C0300].map (decodeTableWord 32) =
      [some (.bc 0 (.direct 0x0300)),
        some (.starBC 13 (.indirectIndexed 1 0x0300)),
        some (.dla 16 (.direct 0x0300)),
        some (.dra 4 (.direct 0x0300)),
        some (.drl 16 (.direct 0x0300)),
        some (.drr 16 (.direct 0x0300)),
        some (.mla 1 (.direct 0x0300)),
        some (.mra 16 (.direct 0x0300)),
        some (.mrr 12 (.direct 0x0300))] := by
  decide

theorem test_decode_IC_1 :
    [0x708A0020, 0x722A0300, 0x7C080300, 0x70070000, 0x788E0300, 0x788A0300, 0x78880300, 0x78810300, 0x78840300].map (decodeTableWord 32) =
      [some (.b true (.direct 0x0020)),
        some (.starB true (.indexed 2 0x0300)),
        some (.lds true (.direct 0x0300)),
        some (.nop),
        some (.ss true (.direct 0x0300)),
        some (.ssb true (.direct 0x0300)),
        some (.sxbs true (.direct 0x0300)),
        some (.sxbw false (.direct 0x0300)),
        some (.sxs false (.direct 0x0300))] := by
  decide

theorem test_decode_IC_2 :
    [0x78850300, 0x70040000, 0x72980020, 0x73100300, 0x70050000, 0x70810300, 0x70090300].map (decodeTableWord 32) =
      [some (.sxw false (.direct 0x0300)),
        some (.xs),
        some (.xsb true (.indexed 1 0x0020)),
        some (.starXSB false (.indirectIndexed 1 0x0300)),
        some (.xw),
        some (.xwb false (.direct 0x0300)),
        some (.starXWB true (.direct 0x0300))] := by
  decide

theorem test_decode_ID_IE_IF :
    [0x0C310300, 0x24050400, 0xE4800300].map (decodeTableWord 32) =
      [some (.arb false 3 0x1 0x0300),
        some (.adac 0x005 0x0400),
        some (.stps (.direct 0x0300))] := by
  decide

theorem test_decode_II :
    [0x10039416, 0x18002800, 0x17FF2800, 0x2800B440, 0x20005000, 0x1C005FF0].map (decodeTableWord 32) =
      [some (.cm ⟨0x003, 4⟩ ⟨0x016, 5⟩),
        some (.cml ⟨0x000, 1⟩ ⟨0x000, 2⟩),
        some (.mov ⟨0x3FF, 1⟩ ⟨0x000, 2⟩),
        some (.brrl 5 ⟨0x040, 5⟩),
        some (.ami ⟨0x000, 2⟩ 0x1000),
        some (.cmi ⟨0x000, 2⟩ 0x1FF0)] := by
  decide

theorem test_decode_III :
    [0x88040C00, 0x80041000, 0x84041C1A, 0x34100C00, 0x38100800, 0x30100040, 0x3C100C20, 0x0BFE3001, 0x2C008402].map (decodeTableWord 32) =
      [some (.setf true ⟨0x004, 0⟩ true),
        some (.xfne false ⟨0x004, 1⟩ false),
        some (.bfne true ⟨0x004, 1⟩ true 0x01A),
        some (.setb true 0x010 true),
        some (.xbne false 0x010 true),
        some (.bbne false 0x010 false 0x040),
        some (.tsbx true 0x010 true 0x020 false),
        some (.ldcr false 0x3FE 3 0x001),
        some (.stcr true 0x000 8 0x002)] := by
  decide

/-! ### One step: vectors of `spec/95_test_vectors.md` section 2, named by mnemonic and vector. The words shown are those the
vector says change; registers stand at `0x80` to `0x8F`. -/

theorem test_A_IA_15 : seen [0x0081] (step
    (start 0x0200 0x0000 0x0000 [(1, 0x7FFF)]
      [(0x0300, 0x0001), (0x0200, 0x4C01), (0x0201, 0x0300)])) =
    some (0x0202, 0x0000, 0x4008, [0x8000]) := by
  decide

theorem test_AA_IA_16 : seen [0x0081] (step
    (start 0x0200 0x0000 0x0000 [(1, 0xFFFF)]
      [(0x0200, 0x4C81), (0x0201, 0x0001)])) =
    some (0x0202, 0x0000, 0x0014, [0x0000]) := by
  decide

theorem test_BL_IA_41 : seen [0x008B] (step
    (start 0x0200 0x0000 0x0000 []
      [(0x0200, 0x748B), (0x0201, 0x0300)])) =
    some (0x0300, 0x0000, 0x0000, [0x0200]) := by
  decide

theorem test_starBL_IA_40 : seen [0x0083] (step
    (start 0x0200 0x0000 0x0200 [(1, 0x0002)]
      [(0x0300, 0x0500), (0x0302, 0x0600), (0x0502, 0x0777), (0x0600, 0x0888), (0x0200, 0x7713), (0x0201, 0x0300)])) =
    some (0x0888, 0x0000, 0x0200, [0x0200]) := by
  decide

theorem test_CR_IA_23 : seen [0x0081] (step
    (start 0x0200 0x0000 0x0000 [(1, 0x8000)]
      [(0x0300, 0x7FFF), (0x0200, 0xC001), (0x0201, 0x0300)])) =
    some (0x0202, 0x0000, 0x0008, [0x8000]) := by
  decide

theorem test_CRA_IA_25 : seen [0x0081] (step
    (start 0x0200 0x0000 0x0000 [(1, 0x0000)]
      [(0x0200, 0xC081), (0x0201, 0xFFFF)])) =
    some (0x0202, 0x0000, 0x0020, [0x0000]) := by
  decide

theorem test_CRL_IA_24 : seen [0x0081] (step
    (start 0x0200 0x0000 0x0000 [(1, 0x8000)]
      [(0x0300, 0x7FFF), (0x0200, 0xC401), (0x0201, 0x0300)])) =
    some (0x0202, 0x0000, 0x0020, [0x8000]) := by
  decide

theorem test_CRLA_IA_26 : seen [0x0081] (step
    (start 0x0200 0x0000 0x0000 [(1, 0x0000)]
      [(0x0200, 0xC481), (0x0201, 0xFFFF)])) =
    some (0x0202, 0x0000, 0x0008, [0x0000]) := by
  decide

theorem test_D_IA_57 : seen [0x0082] (step
    (start 0x0200 0x0000 0x0000 [(1, 0xFFFF), (2, 0xFFF9)]
      [(0x0300, 0x0002), (0x0200, 0xD001), (0x0201, 0x0300)])) =
    some (0x0202, 0x0000, 0x0008, [0xFFFD]) := by
  decide

theorem test_DA_IA_58 : seen [0x0081, 0x0082] (step
    (start 0x0200 0x0000 0x0000 [(1, 0x0000), (2, 0x0007)]
      [(0x0200, 0xD081), (0x0201, 0xFFFE)])) =
    some (0x0202, 0x0000, 0x0020, [0x0001, 0xFFFD]) := by
  decide

theorem test_DAD_IA_64 : seen [0x0081, 0x0082] (step
    (start 0x0200 0x0000 0x0000 [(1, 0x7FFF), (2, 0xFFFF)]
      [(0x0300, 0x0000), (0x0301, 0x0001), (0x0200, 0xE801), (0x0201, 0x0300)])) =
    some (0x0202, 0x0000, 0x4008, [0x8000, 0x0000]) := by
  decide

theorem test_DLAX_IA_67 : seen [0x0300, 0x0301] (step
    (start 0x0200 0x0000 0x0000 [(1, 0x0010)]
      [(0x0300, 0x0000), (0x0301, 0x8000), (0x0200, 0xC881), (0x0201, 0x0300)])) =
    some (0x0202, 0x0000, 0x4008, [0x8000, 0x0000]) := by
  decide

theorem test_DRAX_IA_69 : seen [0x0300] (step
    (start 0x0200 0x0000 0x0000 [(1, 0x0004)]
      [(0x0300, 0x8000), (0x0301, 0x0000), (0x0200, 0xD481), (0x0201, 0x0300)])) =
    some (0x0202, 0x0000, 0x0008, [0xF800]) := by
  decide

theorem test_DRLX_IA_71 : seen [0x0300, 0x0301] (step
    (start 0x0200 0x0000 0x0000 [(1, 0x0000)]
      [(0x0300, 0x8000), (0x0301, 0x0001), (0x0200, 0xD881), (0x0201, 0x0300)])) =
    some (0x0202, 0x0000, 0x0010, [0x0000, 0x0000]) := by
  decide

theorem test_DRRX_IA_72 : seen [0x0300, 0x0301] (step
    (start 0x0200 0x0000 0x0000 [(1, 0x0014)]
      [(0x0300, 0x1234), (0x0301, 0x5678), (0x0200, 0xDC81), (0x0201, 0x0300)])) =
    some (0x0202, 0x0000, 0x0020, [0x4567, 0x8123]) := by
  decide

theorem test_DS_IA_66 : seen [0x0081, 0x0082] (step
    (start 0x0200 0x0000 0x0004 [(1, 0x8000), (2, 0x0000)]
      [(0x0300, 0x0000), (0x0301, 0x0001), (0x0200, 0xEC01), (0x0201, 0x0300)])) =
    some (0x0202, 0x0000, 0x4024, [0x7FFF, 0xFFFF]) := by
  decide

theorem test_L_IA_01 : seen [0x0082] (step
    (start 0x0200 0x0000 0x0000 [(3, 0x0004)]
      [(0x0154, 0x03C7), (0x03C7, 0x026F), (0x0150, 0x03D5), (0x03D9, 0x4284), (0x0200, 0x4732), (0x0201, 0x0150)])) =
    some (0x0202, 0x0000, 0x0020, [0x026F]) := by
  decide

theorem test_L_IA_02 : seen [0x0082] (step
    (start 0x0200 0x0000 0x0200 [(3, 0x0004)]
      [(0x0154, 0x03C7), (0x03C7, 0x026F), (0x0150, 0x03D5), (0x03D9, 0x4284), (0x0200, 0x4732), (0x0201, 0x0150)])) =
    some (0x0202, 0x0000, 0x0220, [0x4284]) := by
  decide

theorem test_LA_IA_09 : seen [0x0082] (step
    (start 0x0200 0x0000 0x0000 [(3, 0x0010)]
      [(0x0200, 0x46B2), (0x0201, 0x0005)])) =
    some (0x0202, 0x0000, 0x0020, [0x0015]) := by
  decide

theorem test_LOT_IA_34 : seen [0x0081] (step
    (start 0x0200 0x0000 0x0000 []
      [(0x0300, 0xF0F0), (0x0200, 0x5401), (0x0201, 0x0300)])) =
    some (0x0202, 0x0000, 0x0020, [0x0008]) := by
  decide

theorem test_LOTA_IA_36 : seen [0x0081] (step
    (start 0x0200 0x0000 0x0000 []
      [(0x0200, 0x5481), (0x0201, 0xFFFF)])) =
    some (0x0202, 0x0000, 0x0020, [0x0010]) := by
  decide

theorem test_M_IA_55 : seen [0x008F, 0x0090] (step
    (start 0x0000 0x0200 0x8000 [(15, 0x0100)]
      [(0x0300, 0x0101), (0x0200, 0xCC07), (0x0201, 0x0300)])) =
    some (0x0000, 0x0202, 0x8020, [0x0001, 0x0100]) := by
  decide

theorem test_MA_IA_53 : seen [0x0081, 0x0082] (step
    (start 0x0200 0x0000 0x0000 [(1, 0x0005)]
      [(0x0200, 0xCC81), (0x0201, 0xFFFD)])) =
    some (0x0202, 0x0000, 0x0008, [0xFFFF, 0xFFF1]) := by
  decide

theorem test_MLAX_IA_46 : seen [0x0300] (step
    (start 0x0200 0x0000 0x0000 [(1, 0x0003)]
      [(0x0300, 0x1000), (0x0200, 0x6081), (0x0201, 0x0300)])) =
    some (0x0202, 0x0000, 0x4008, [0x8000]) := by
  decide

theorem test_MRAX_IA_48 : seen [0x0300] (step
    (start 0x0200 0x0000 0x0000 [(1, 0x0014)]
      [(0x0300, 0x8000), (0x0200, 0x6481), (0x0201, 0x0300)])) =
    some (0x0202, 0x0000, 0x0008, [0xF800]) := by
  decide

theorem test_MRRX_IA_49 : seen [0x0300] (step
    (start 0x0200 0x0000 0x0000 [(1, 0x0001)]
      [(0x0300, 0x0001), (0x0200, 0x6881), (0x0201, 0x0300)])) =
    some (0x0202, 0x0000, 0x0008, [0x8000]) := by
  decide

theorem test_N_IA_28 : seen [0x0081] (step
    (start 0x0200 0x0000 0x0000 [(1, 0xFF00)]
      [(0x0300, 0x0FF0), (0x0200, 0x5801), (0x0201, 0x0300)])) =
    some (0x0202, 0x0000, 0x0020, [0x0F00]) := by
  decide

theorem test_NA_IA_29 : seen [0x0080] (step
    (start 0x0200 0x0000 0x0000 [(0, 0x5241)]
      [(0x0200, 0x5880), (0x0201, 0xFF00)])) =
    some (0x0202, 0x0000, 0x0020, [0x5200]) := by
  decide

theorem test_OR_IA_30 : seen [0x0081] (step
    (start 0x0200 0x0000 0x0000 [(1, 0x8001)]
      [(0x0300, 0x0100), (0x0200, 0x5C01), (0x0201, 0x0300)])) =
    some (0x0202, 0x0000, 0x0008, [0x8101]) := by
  decide

theorem test_ORA_IA_31 : seen [0x0081] (step
    (start 0x0200 0x0000 0x0000 [(1, 0x0000)]
      [(0x0200, 0x5C81), (0x0201, 0x0000)])) =
    some (0x0202, 0x0000, 0x0010, [0x0000]) := by
  decide

theorem test_S_IA_19 : seen [0x0081] (step
    (start 0x0200 0x0000 0x0000 [(1, 0x8000)]
      [(0x0300, 0x0001), (0x0200, 0x5001), (0x0201, 0x0300)])) =
    some (0x0202, 0x0000, 0x4024, [0x7FFF]) := by
  decide

theorem test_SA_IA_21 : seen [0x0081] (step
    (start 0x0200 0x0000 0x0000 [(1, 0x0005)]
      [(0x0200, 0x5081), (0x0201, 0x0005)])) =
    some (0x0202, 0x0000, 0x0014, [0x0000]) := by
  decide

theorem test_SAT_IA_43 : seen [0x0081, 0x0300] (step
    (start 0x0200 0x0000 0x0000 [(1, 0x0010)]
      [(0x0300, 0x0123), (0x0200, 0x6C01), (0x0201, 0x0300)])) =
    some (0x0202, 0x0000, 0x0020, [0x0017, 0x1180]) := by
  decide

theorem test_ST_IA_14 : seen [0x008A] (step
    (start 0x0200 0x0000 0x0000 [(1, 0x0042)]
      [(0x0200, 0x4881), (0x0201, 0x008A)])) =
    some (0x0202, 0x0000, 0x0020, [0x0042]) := by
  decide

theorem test_ST_IA_12 : seen [0x0081] (step
    (start 0x0200 0x0000 0x0000 [(1, 0x0007)]
      [(0x0010, 0x1111), (0x0200, 0x4881), (0x0201, 0x0010)])) =
    some (0x0202, 0x0000, 0x0420, [0x0007]) := by
  decide

theorem test_XOR_IA_32 : seen [0x0081] (step
    (start 0x0200 0x0000 0x0000 [(1, 0xAAAA)]
      [(0x0300, 0xFFFF), (0x0200, 0x4001), (0x0201, 0x0300)])) =
    some (0x0202, 0x0000, 0x0020, [0x5555]) := by
  decide

theorem test_XORA_IA_33 : seen [0x0080] (step
    (start 0x0200 0x0000 0x0000 [(0, 0x454E)]
      [(0x0200, 0x4080), (0x0201, 0x454E)])) =
    some (0x0202, 0x0000, 0x0010, [0x0000]) := by
  decide

theorem test_BC_IB_03 : seen [] (step
    (start 0x0000 0x0200 0x8000 []
      [(0x0200, 0xE080), (0x0201, 0x0300)])) =
    some (0x0000, 0x0300, 0x8000, []) := by
  decide

theorem test_starBC_IB_07 : seen [0x0081] (step
    (start 0x0200 0x0000 0x0204 [(1, 0x0002)]
      [(0x0300, 0x0500), (0x0302, 0x0600), (0x0502, 0x0777), (0x0600, 0x0888), (0x0200, 0xE31D), (0x0201, 0x0300)])) =
    some (0x0888, 0x0000, 0x0204, [0x0002]) := by
  decide

theorem test_DLA_IB_20 : seen [0x0300, 0x0301] (step
    (start 0x0200 0x0000 0x0000 []
      [(0x0300, 0x0000), (0x0301, 0x8000), (0x0200, 0xC800), (0x0201, 0x0300)])) =
    some (0x0202, 0x0000, 0x4008, [0x8000, 0x0000]) := by
  decide

theorem test_DRA_IB_22 : seen [0x0300] (step
    (start 0x0200 0x0000 0x0000 []
      [(0x0300, 0x8000), (0x0301, 0x0000), (0x0200, 0xD404), (0x0201, 0x0300)])) =
    some (0x0202, 0x0000, 0x0008, [0xF800]) := by
  decide

theorem test_DRL_IB_24 : seen [0x0300, 0x0301] (step
    (start 0x0200 0x0000 0x0000 []
      [(0x0300, 0x1234), (0x0301, 0x5678), (0x0200, 0xD800), (0x0201, 0x0300)])) =
    some (0x0202, 0x0000, 0x0010, [0x0000, 0x1234]) := by
  decide

theorem test_DRR_IB_25 : seen [0x0300, 0x0301] (step
    (start 0x0200 0x0000 0x0000 []
      [(0x0300, 0x1234), (0x0301, 0x5678), (0x0200, 0xDC00), (0x0201, 0x0300)])) =
    some (0x0202, 0x0000, 0x0020, [0x5678, 0x1234]) := by
  decide

theorem test_MLA_IB_10 : seen [0x0300] (step
    (start 0x0200 0x0000 0x4000 []
      [(0x0300, 0xC000), (0x0200, 0x6001), (0x0201, 0x0300)])) =
    some (0x0202, 0x0000, 0x0008, [0x8000]) := by
  decide

theorem test_MRA_IB_14 : seen [0x0300] (step
    (start 0x0200 0x0000 0x0000 []
      [(0x0300, 0x8000), (0x0200, 0x6400), (0x0201, 0x0300)])) =
    some (0x0202, 0x0000, 0x0008, [0xFFFF]) := by
  decide

theorem test_MRR_IB_18 : seen [0x0300] (step
    (start 0x0200 0x0000 0x0000 []
      [(0x0300, 0x1234), (0x0200, 0x680C), (0x0201, 0x0300)])) =
    some (0x0202, 0x0000, 0x0020, [0x2341]) := by
  decide

theorem test_B_IC_03 : seen [0x0085] (step
    (start 0x0000 0x0200 0x8000 [(5, 0x1000), (13, 0x2000)]
      [(0x0200, 0x708A), (0x0201, 0x0020)])) =
    some (0x0000, 0x2020, 0x8000, [0x1000]) := by
  decide

theorem test_starB_IC_05 : seen [0x0082] (step
    (start 0x0200 0x0000 0x0200 [(2, 0x0001), (5, 0x1000)]
      [(0x0301, 0x0040), (0x0200, 0x722A), (0x0201, 0x0300)])) =
    some (0x1040, 0x0000, 0x0200, [0x0001]) := by
  decide

theorem test_LDS_IC_09 : seen [0x0085] (step
    (start 0x0900 0x0200 0x8000 [(13, 0x1000), (5, 0x4000)]
      [(0x0300, 0x0010), (0x0301, 0x0C03), (0x0200, 0x7C08), (0x0201, 0x0300)])) =
    some (0x0900, 0x1010, 0x0C03, [0x4000]) := by
  decide

theorem test_NOP_IC_06 : seen [] (step
    (start 0x0200 0x0000 0x0038 []
      [(0x0200, 0x7007), (0x0201, 0x0000)])) =
    some (0x0202, 0x0000, 0x0038, []) := by
  decide

theorem test_SS_IC_11 : seen [0x0300] (step
    (start 0x0200 0x0000 0x0000 [(5, 0x0100)]
      [(0x0200, 0x788E), (0x0201, 0x0300)])) =
    some (0x0202, 0x0000, 0x0000, [0x0102]) := by
  decide

theorem test_SSB_IC_13 : seen [0x0300] (step
    (start 0x0200 0x0000 0x0000 [(5, 0x0100)]
      [(0x0302, 0x0003), (0x0200, 0x788A), (0x0201, 0x0300)])) =
    some (0x0103, 0x0000, 0x0000, [0x0102]) := by
  decide

theorem test_SXBS_IC_17 : seen [0x0300, 0x0301] (step
    (start 0x0900 0x0200 0x8000 [(5, 0x0100), (13, 0x0200)]
      [(0x0302, 0x0040), (0x0200, 0x7888), (0x0201, 0x0300)])) =
    some (0x0140, 0x0202, 0x0000, [0x0800, 0x8000]) := by
  decide

theorem test_SXBW_IC_18 : seen [0x0300] (step
    (start 0x0200 0x0700 0x0000 []
      [(0x0302, 0x0500), (0x0200, 0x7881), (0x0201, 0x0300)])) =
    some (0x0202, 0x0500, 0x8000, [0x0700]) := by
  decide

theorem test_SXS_IC_20 : seen [0x0300, 0x0301] (step
    (start 0x0900 0x0200 0x8010 []
      [(0x0200, 0x7884), (0x0201, 0x0300)])) =
    some (0x0900, 0x0202, 0x0010, [0x0900, 0x8010]) := by
  decide

theorem test_SXW_IC_22 : seen [0x0300, 0x0301] (step
    (start 0x0200 0x0700 0x0010 []
      [(0x0200, 0x7885), (0x0201, 0x0300)])) =
    some (0x0202, 0x0700, 0x8010, [0x0700, 0x0010]) := by
  decide

theorem test_XS_IC_23 : seen [] (step
    (start 0x0900 0x0200 0x8000 []
      [(0x0200, 0x7004), (0x0201, 0x0000)])) =
    some (0x0900, 0x0202, 0x0000, []) := by
  decide

theorem test_XSB_IC_27 : seen [0x0081] (step
    (start 0x0900 0x0200 0x8000 [(9, 0x0003), (1, 0x0050), (5, 0x1000), (13, 0x2000)]
      [(0x0200, 0x7298), (0x0201, 0x0020)])) =
    some (0x1023, 0x0202, 0x0000, [0x0050]) := by
  decide

theorem test_starXSB_IC_28 : seen [0x0081] (step
    (start 0x0200 0x0000 0x0200 [(1, 0x0002)]
      [(0x0300, 0x0500), (0x0302, 0x0600), (0x0502, 0x0777), (0x0600, 0x0888), (0x0200, 0x7310), (0x0201, 0x0300)])) =
    some (0x0777, 0x0000, 0x0200, [0x0002]) := by
  decide

theorem test_XW_IC_25 : seen [] (step
    (start 0x0200 0x0700 0x0000 []
      [(0x0200, 0x7005), (0x0201, 0x0000)])) =
    some (0x0202, 0x0700, 0x8000, []) := by
  decide

theorem test_XWB_IC_30 : seen [] (step
    (start 0x0200 0x0700 0x0000 []
      [(0x0200, 0x7081), (0x0201, 0x0300)])) =
    some (0x0202, 0x0300, 0x8000, []) := by
  decide

theorem test_starXWB_IC_31 : seen [0x0085] (step
    (start 0x0200 0x0700 0x0000 [(13, 0x2000), (5, 0x1000)]
      [(0x0300, 0x0044), (0x0200, 0x7009), (0x0201, 0x0300)])) =
    some (0x0202, 0x2044, 0x8000, [0x1000]) := by
  decide

theorem test_ARB_ID_06 : seen [0x0083] (step
    (start 0x0200 0x0000 0x4004 [(3, 0x7FFF)]
      [(0x0200, 0x0C31), (0x0201, 0x0300)])) =
    some (0x0202, 0x0000, 0x400C, [0x8000]) := by
  decide

theorem test_ARB_ID_09 : seen [0x0085] (step
    (start 0x0200 0x0000 0x0000 [(5, 0x1008)]
      [(0x0200, 0x0CD8), (0x0201, 0x0020)])) =
    some (0x1020, 0x0000, 0x0020, [0x1000]) := by
  decide

theorem test_ADAC_ID_11 : sent (step
    (start 0x0200 0x0000 0x0024 []
      [(0x0200, 0x2405), (0x0201, 0x0400)])) =
    some [(0x005, 0x0400)] := by
  decide

theorem test_STPS_ID_12 : seen [0x0300] (step
    ((start 0x0200 0x0000 0x0000 []
      [(0x0200, 0xE480), (0x0201, 0x0300)]).setPanel { State.reset.panel with data := 0x8001 })) =
    some (0x0202, 0x0000, 0x0008, [0x8001]) := by
  decide

theorem test_CM_II_01 : seen [0x0084] (step
    (start 0x0200 0x0000 0x0000 [(4, 0x0400), (5, 0x0500)]
      [(0x0403, 0x8000), (0x0516, 0x7FFF), (0x0200, 0x1003), (0x0201, 0x9416)])) =
    some (0x0202, 0x0000, 0x0000, [0x0400]) := by
  decide

theorem test_CML_II_07 : seen [0x0081] (step
    (start 0x0200 0x0000 0x0000 [(1, 0x0400), (2, 0x0500)]
      [(0x0400, 0x0007), (0x0500, 0x0009), (0x0501, 0x0005), (0x0200, 0x1800), (0x0201, 0x2800)])) =
    some (0x0202, 0x0000, 0x0000, [0x0400]) := by
  decide

theorem test_MOV_II_10 : seen [0x0081] (step
    (start 0x0200 0x0000 0x0000 [(1, 0xFC01), (2, 0x0010)]
      [(0x0000, 0x0ABC), (0x0010, 0x1111), (0x0200, 0x17FF), (0x0201, 0x2800)])) =
    some (0x0202, 0x0000, 0x0420, [0xFC01]) := by
  decide

theorem test_BRRL_II_12 : seen [0x0085] (step
    (start 0x1010 0x0000 0x0000 [(5, 0x1000)]
      [(0x1010, 0x2800), (0x1011, 0xB440)])) =
    some (0x1040, 0x0000, 0x0000, [0x0012]) := by
  decide

theorem test_AMI_II_15 : seen [0x0400] (step
    (start 0x0200 0x0000 0x0000 [(2, 0x0400)]
      [(0x0400, 0x8000), (0x0200, 0x2000), (0x0201, 0x5000)])) =
    some (0x0202, 0x0000, 0x4024, [0x7000]) := by
  decide

theorem test_CMI_II_17 : seen [0x0082] (step
    (start 0x0200 0x0000 0x0000 [(2, 0x0400)]
      [(0x0400, 0xFFF0), (0x0200, 0x1C00), (0x0201, 0x5FF0)])) =
    some (0x0206, 0x0000, 0x0000, [0x0400]) := by
  decide

theorem test_SETF_III_03 : words [0x0604] (step
    (start 0x0200 0x0000 0x0000 [(6, 0x0400), (14, 0x0600)]
      [(0x0404, 0x0000), (0x0604, 0x0000), (0x0200, 0x8804), (0x0201, 0x0C00)])) =
    some [0x8000] := by
  decide

theorem test_XFNE_III_07 : seen [0x008E] (step
    (start 0x0900 0x0200 0x8010 [(14, 0x0400)]
      [(0x0404, 0x4000), (0x0200, 0x8004), (0x0201, 0x1000)])) =
    some (0x0900, 0x0200, 0x0010, [0x0400]) := by
  decide

theorem test_BFNE_III_11 : seen [0x0085] (step
    (start 0x0000 0x0200 0x8000 [(5, 0x0060), (13, 0x1000), (6, 0x0400), (14, 0x0600)]
      [(0x0404, 0x0000), (0x0604, 0x4000), (0x0200, 0x8404), (0x0201, 0x1C1A)])) =
    some (0x0000, 0x101A, 0x8000, [0x0060]) := by
  decide

theorem test_SETB_III_14 : lines [0x110] (step
    (start 0x0200 0x0000 0x0000 [(7, 0x0F70), (15, 0x0100)]
      [(0x0200, 0x3410), (0x0201, 0x0C00)])) =
    some [true] := by
  decide

theorem test_XBNE_III_16 : seen [0x0087] (step
    (start 0x0200 0x0700 0x0000 [(7, 0x0100)]
      [(0x0200, 0x3810), (0x0201, 0x0800)])) =
    some (0x0200, 0x0700, 0x8000, [0x0100]) := by
  decide

theorem test_BBNE_III_17 : seen [0x0085] (step
    ((start 0x0200 0x0000 0x0000 [(7, 0x0100), (5, 0x1000)]
      [(0x0200, 0x3010), (0x0201, 0x0040)]).setCru { State.reset.cru with inputs := [0x110] })) =
    some (0x1040, 0x0000, 0x0000, [0x1000]) := by
  decide

theorem test_TSBX_III_21 : seen [0x0087] (step
    (start 0x0200 0x0700 0x0000 [(7, 0x0100), (15, 0x0200)]
      [(0x0200, 0x3C10), (0x0201, 0x0C20)])) =
    some (0x0202, 0x0700, 0x0000, [0x0100]) := by
  decide

theorem test_LDCR_III_25 : lines [0x1FE, 0x1FF, 0x200] (step
    (start 0x0200 0x0000 0x0000 [(7, 0x0E00), (4, 0x0400)]
      [(0x0401, 0x0005), (0x0200, 0x0BFE), (0x0201, 0x3001)])) =
    some [true, false, true] := by
  decide

theorem test_STCR_III_31 : seen [0x0602] (step
    ((start 0x0200 0x0000 0x0000 [(7, 0x0100), (4, 0x0400), (15, 0x0200), (12, 0x0600)]
      [(0x0200, 0x2C00), (0x0201, 0x8402)]).setCru { State.reset.cru with inputs := [0x200] })) =
    some (0x0202, 0x0000, 0x0020, [0x0001]) := by
  decide

/-! ### Interrupts, undefined codes, panel and power (`spec/95_test_vectors.md` sections 2.7 and 2.8) -/

/-- The linkage words that section 2.7 lists. -/
def linkage : List (Word × Word) :=
  [(0x90, 0x7880), (0x91, 0x00A8), (0xAA, 0x0400), (0x92, 0x7880), (0x93, 0x00B0), (0xB2, 0x0600), (0x94, 0x7880),
    (0x95, 0x00AC), (0xAE, 0x0500), (0x200, 0x7007)]

theorem test_INT_02 : seen [0xA8, 0xA9] (step ((start 0x0900 0x0200 0x8428 [] linkage).setPending true)) =
    some (0x0400, 0x0200, 0x05E8, [0x0900, 0x8428]) := by decide

theorem test_INT_03 : seen [0x90] (step ((start 0x0200 0 0x0520 [] linkage).setPending true)) =
    some (0x0202, 0, 0x0520, [0x7880]) := by decide

theorem test_INT_07 : seen [0xAC, 0xAD] (step (((start 0x0200 0 0 [] linkage).setCru
      { State.reset.cru with interruptLine := true }).setDmac { State.reset.dmac with intStatus := 1 })) =
    some (0x0500, 0, 0x00C0, [0x0200, 0x0000]) := by decide

theorem test_INT_11 : seen [0x400] (step ((start 0x0200 0 0x0020 [(2, 0x0400)]
      [(0x94, 0x2000), (0x95, 0x4001), (0x400, 0x0009)]).setCru { State.reset.cru with interruptLine := true })) =
    some (0x0200, 0, 0x00E0, [0x000A]) := by decide

theorem test_INT_12_first : pends (step (start 0x0200 0 0 [] [])) = some true := by decide

theorem test_IA_12_requests :
    pends (step (start 0x0200 0 0 [(1, 7)] [(0x200, 0x4881), (0x201, 0x0010)])) = some true := by decide

theorem test_RST_04 : seen [] (step
      { State.reset with
        powered := false
        schedule := [.powerRestored
          { batteryOn := false, regs := State.reset.cpu.regs, pc := 0x1234, ec := 0, ia := 0, ib := 0, ma := 0, display := 0
            outputs := [], intStatus := 0, status := State.reset.dmac.status, activations := [], tasks := []
            errorLatches := [], retained := false, contents := [], failing := [] }] }) =
    some (0x1234, 0, 0x00C0, []) := by decide

/-- A DMAC cycle with no task in progress is none (R76); one of a task in progress stores its word (R387). -/
theorem test_DMAC_needs_a_task :
    words [0x0300] (step { State.reset with schedule := [.dmacWrite 0 0x0300 0x1234] }) = some [0] ∧
    words [0x0300] (step
      { State.reset with
        dmac := { State.reset.dmac with tasks := [{ controller := 0, request := 0, list := 0 }] }
        schedule := [.dmacWrite 0 0x0300 0x1234] }) = some [0x1234] := by decide

/-- The DATA lights in the SIE mode and in HALT (R42). -/
theorem test_DATA_lights :
    State.dataLights
      { State.reset with
        cpu := { State.reset.cpu with pc := 0x0200 }, panel := { State.reset.panel with sie := true, display := 5 } } =
      0x0200 ∧
    State.dataLights
      { State.reset with
        cpu := { State.reset.cpu with pc := 0x0200 }, panel := { State.reset.panel with display := 5 } } = 5 := by
  decide

theorem test_panel_enter_and_start :
    goesOn (step { State.reset with schedule := [.panel (.setMode true)] }) = true := by decide

/-! ### Witnesses: hypotheses of the statements, met together -/

/-- In RUN at `0x0200`, memory all 0 but a few words. -/
def fresh : State :=
  start 0x0200 0x0700 0 [(3, 0x0004), (8, 0x0200)]
    [(0x150, 0x03D5), (0x154, 0x03C7), (0x200, 0x7007), (0x300, 0x0001), (0x301, 0x8000)]

/-- The four forms of an address, with operands at ordinary, register and last addresses. -/
def forms : List Address :=
  [.direct 0x0300, .direct 0x0081, .direct 0xFFFF, .indirect 0x0150, .indexed 3 0xFFFE, .indirectIndexed 3 0x0150]

theorem witness_DecodeEncodeAgree :
    [Instr.mla 1 (.direct 0), .mla 16 (.direct 0), .stcr true 0x3FF 16 0x3FF, .ldcr false 0 1 0, .nop].map
      Instr.wellFormed = [true, true, true, true, true] := by decide

theorem witness_UndefinedCodesAreTheListed :
    decode Layout.standard 0x70030000 = .error (.extension 0x1C false 3) ∧ undefinedPair 0x70030000 = true ∧
    undefinedPair 0x04000000 = true ∧ undefinedPair 0x08000000 = false ∧ undefinedPair 0xF0000000 = true := by decide

theorem witness_UnusedBitsIgnored :
    decode Layout.standard 0x70070000 = .ok .nop ∧
    (0x70070000 : DWord) &&& ~~~unusedBits Layout.standard .nop = 0x737FFFFF &&& ~~~unusedBits Layout.standard .nop := by
  decide

theorem witness_OptionalNeedTheBoard :
    decode Config.standard.layout 0xCC010300 = .ok (.m ⟨false, 1⟩ (.direct 0x0300)) ∧
    decode Config.standard.layout 0x70070000 = .ok .nop := by decide

theorem witness_StepRunsTheDecodedInstruction :
    fresh.schedule = [] ∧ fresh.powered = true ∧ fresh.running = true ∧ fresh.clockRuns = true ∧
    fresh.requested = none ∧ fresh.sound fresh.lc = true ∧ fresh.sound (fresh.lc + 1#16) = true ∧
    decodeFor fresh.config (pairOf (fresh.peek fresh.lc) (fresh.peek (fresh.lc + 1#16))) = some .nop := by decide

/-- The same at the last address, where the pair wraps to address 0. -/
theorem witness_StepRunsTheDecodedInstruction_wraps :
    (fresh.setPc 0xFFFF).sound 0xFFFF = true ∧ (fresh.setPc 0xFFFF).sound ((fresh.setPc 0xFFFF).lc + 1#16) = true ∧
    (fresh.setPc 0xFFFF).requested = none := by decide

theorem witness_UndefinedCodeInterrupts :
    (fresh.setPc 0x0400).schedule = [] ∧ (fresh.setPc 0x0400).powered = true ∧ (fresh.setPc 0x0400).running = true ∧
    (fresh.setPc 0x0400).clockRuns = true ∧ (fresh.setPc 0x0400).requested = none ∧
    (fresh.setPc 0x0400).sound (fresh.setPc 0x0400).lc = true ∧
    (fresh.setPc 0x0400).sound ((fresh.setPc 0x0400).lc + 1#16) = true ∧
    decodeFor (fresh.setPc 0x0400).config
      (pairOf ((fresh.setPc 0x0400).peek 0x0400) ((fresh.setPc 0x0400).peek 0x0401)) = none := by decide

theorem witness_EveryInstructionCompletes : ∀ rq adr, Instr.nop ≠ .lds rq adr := by
  intro rq adr h; cases h

theorem witness_IndicatorsWritten : ∃ t, exec .nop fresh = .next t := ⟨_, rfl⟩

theorem witness_ProtectedWordsKept :
    fresh.schedule = [] ∧ goesOn (step fresh) = true ∧ fresh.blocked 0x0000 = true ∧ fresh.blocked 0x007F = true ∧
    fresh.blocked 0x0080 = false ∧ fresh.blocked 0x00A8 = false := by decide

theorem witness_StepKeepsInvariant : fresh.Inv ∧ goesOn (step fresh) = true :=
  ⟨⟨by unfold State.memoryLegal; decide, by unfold State.checksLegal; decide, by unfold State.linesLegal; decide,
    by unfold State.runLegal; decide⟩, by decide⟩

theorem witness_ReadAfterWrite :
    [0x0080, 0x008F, 0x0090, 0x00A8, 0x0300, 0xFFFF].map fresh.storable = [true, true, true, true, true, true] := by
  decide

theorem witness_CanonicalMemory : fresh.mem.wf = true ∧ Memory.wf [] = true := by decide

theorem witness_ProtectedWriteRaises :
    fresh.isProtected 0x0000 = true ∧ fresh.isProtected 0x007F = true ∧ fresh.isProtected 0x0080 = false ∧
    fresh.isProtected 0x00A7 = false ∧ fresh.isProtected 0x00A8 = false ∧ fresh.panel.mpo = false ∧
    fresh.addressReads (.direct 0x007F) = true ∧ fresh.eff (.direct 0x007F) = 0x007F := by decide

/-- The widest limit protects up to `0xFFFF`. -/
theorem witness_ProtectedWriteRaises_widest :
    fresh.isProtected 0x00A8 = false ∧
    State.isProtected { fresh with config := { fresh.config with protectLimit := .toFFFF } } 0x00A8 = true ∧
    State.isProtected { fresh with config := { fresh.config with protectLimit := .toFFFF } } 0xFFFF = true := by decide

/-- Suppressed words: the last protected address, tallies 16 and 1. -/
theorem witness_ProtectedWriteRaises_words :
    let s := fresh.store 0x0010 0x4000
    s.addressReads (.direct 0x007F) = true ∧ s.blocked 0x007F = true ∧ s.sound 0x007F = true ∧
    (∀ k, k < 16 → bit (s.peek 0x007F) k = false) ∧ s.blocked 0x0010 = true ∧ s.sound 0x0010 = true ∧
    (∀ k, k < 1 → bit (s.peek 0x0010) k = false) ∧ bit (s.peek 0x0010) 1 = true := by decide

/-- Suppressed double words and blocks: both words, the first alone (`0x7F` and a register), the second alone (`0xFFFF` and 0). -/
theorem witness_ProtectedWriteRaises_pairs :
    fresh.operandReads2 (.direct 0x007E) = true ∧ fresh.blocked 0x007E = true ∧ fresh.blocked (0x007E + 1#16) = true ∧
    fresh.operandReads2 (.direct 0x007F) = true ∧ fresh.blocked 0x007F = true ∧
    fresh.storable (0x007F + 1#16) = true ∧ fresh.operandReads2 (.direct 0xFFFF) = true ∧
    fresh.storable 0xFFFF = true ∧ fresh.blocked (0xFFFF + 1#16) = true ∧ fresh.sound (0x007E + 2#16) = true ∧
    fresh.sound (0xFFFF + 2#16) = true := by decide

/-- Suppressed MOV, AMI, SETF and STCR: a base register 0 and a displacement of `0x7F`. -/
theorem witness_ProtectedWriteRaises_groups :
    (0x007F : Word) = fresh.active 0 + BitVec.ofNat 16 (0x07F#10).toNat ∧ fresh.sound 0x007F = true ∧
    fresh.blocked 0x007F = true ∧
    (0x007F : Word) = fresh.reg (fileIndex (if false then otherMode fresh.mode else fresh.mode) 6) +
      BitVec.ofNat 16 (0x07F#10).toNat ∧
    (∀ j, j < 16 → bit 0x8000 j = if j = 0 then true else bit (fresh.peek 0x007F) j) ∧
    (0x007F : Word) = fresh.reg (fileIndex (if false then otherMode fresh.mode else fresh.mode) 4) +
      BitVec.ofNat 16 (0x07F#10).toNat ∧
    (0x100 : CruLine) = BitVec.ofNat 12 ((0x100#10).toNat + (fresh.reg
      (fileIndex (if false then otherMode fresh.mode else fresh.mode) 7)).toNat) ∧
    (∀ k, k < 1 → fresh.hasInput (0x100 + BitVec.ofNat 12 k) = true) ∧
    (∀ j, j < 16 → bit 0x0000 (15 - j) =
      lineLevel fresh.cru.inputs (0x100 + BitVec.ofNat 12 (if j < 1 then j else 1 - 1))) := by decide

theorem witness_ParityErrorRaises :
    placeOf 0xFFFF = .memory 0xFFFF ∧ (fresh.spoilWord 0xFFFF).installed 0xFFFF = true ∧
    (fresh.spoilWord 0xFFFF).checkFails.contains 0xFFFF = true := by decide

/-- For the statements about an operand, or an address alone. -/
theorem witness_operandReads :
    forms.map fresh.operandReads = [true, true, true, true, true, true] ∧
    forms.map fresh.addressReads = [true, true, true, true, true, true] := by decide

theorem witness_RegisterLoadsAndLogic : fresh.operandReads (.indirectIndexed 3 0x0150) = true := by decide
theorem witness_ImmediateLoadsAndLogic : fresh.addressReads (.indirectIndexed 3 0x0150) = true := by decide
theorem witness_AddsToRegister : fresh.operandReads (.indexed 3 0xFFFE) = true ∧ fresh.addressReads (.direct 0) = true := by
  decide
theorem witness_SubtractsFromRegister :
    fresh.operandReads (.direct 0xFFFF) = true ∧ fresh.addressReads (.indirect 0x0150) = true := by decide
theorem witness_RegisterCompares :
    fresh.operandReads (.direct 0x0081) = true ∧ fresh.addressReads (.direct 0xFFFF) = true := by decide
theorem witness_StoreRegisterOrSwitches :
    fresh.addressReads (.direct 0x008A) = true ∧ fresh.storable (fresh.eff (.direct 0x008A)) = true := by decide
theorem witness_BranchAndLink :
    fresh.addressReads (.direct 0x0300) = true ∧ fresh.operandReadsPre (.indirectIndexed 3 0x0150) = true := by decide

theorem witness_ShiftAndAddTally :
    fresh.operandReads (.direct 0x0300) = true ∧ fresh.storable (fresh.eff (.direct 0x0300)) = true ∧
    (∀ k, k < 15 → bit (fresh.peek (fresh.eff (.direct 0x0300))) k = false) ∧
    bit (fresh.peek (fresh.eff (.direct 0x0300))) 15 = true := by decide

/-- Tallies 0 and 16, and an operand that is the register itself. -/
theorem witness_ShiftAndAddTally_ends :
    bit (fresh.peek 0x0301) 0 = true ∧ (∀ k, k < 16 → bit (fresh.peek 0x0400) k = false) ∧
    fresh.eff (.direct 0x0083) = regAddress (fresh.regOf ⟨false, 3⟩) ∧ fresh.storable 0x0083 = true := by decide

theorem witness_RegisterCountShifts :
    fresh.operandReads (.direct 0x0300) = true ∧ fresh.storable (fresh.eff (.direct 0x0300)) = true ∧
    (fresh.reg (fresh.regOf ⟨false, 3⟩)).toNat % 16 = 4 ∧ (fresh.reg (fresh.regOf ⟨false, 1⟩)).toNat % 16 = 0 := by decide

/-- The pair of a supervisor register 7 runs on to a worker register, that of worker register 7 to memory word `0x90`. -/
theorem witness_Multiplies :
    fresh.regOf ⟨true, 7⟩ = 15 ∧ fresh.storable (regAddress 15 + 1#16) = true ∧
    fresh.storable (regAddress 7 + 1#16) = true ∧ fresh.operandReads (.direct 0x0300) = true ∧
    fresh.addressReads (.direct 0xFFFF) = true := by decide

/-- `-7 = -3 * 2 - 1`. -/
theorem witness_Divides :
    let s := start 0x0200 0 0 [(1, 0xFFFF), (2, 0xFFF9)] [(0x300, 0x0002)]
    s.regOf ⟨false, 1⟩ = 1 ∧ s.storable (regAddress 1 + 1#16) = true ∧ s.pairReads 1 = true ∧ (2#16 : Word) ≠ 0#16 ∧
    (joinWords (s.reg 1) (s.peek (regAddress 1 + 1#16))).toInt = (-3) * (2#16 : Word).toInt + (-1) ∧
    (-1 : Int).natAbs < (2#16 : Word).toInt.natAbs ∧
    0 ≤ (-1) * (joinWords (s.reg 1) (s.peek (regAddress 1 + 1#16))).toInt ∧
    s.operandReads (.direct 0x0300) = true ∧ 2#16 = s.peek (s.eff (.direct 0x0300)) ∧
    s.addressReads (.direct 2) = true ∧ 2#16 = s.eff (.direct 2) := by decide

/-- The quotient at its lower bound: `-65536 = -32768 * 2 + 0`. -/
theorem witness_Divides_bound :
    (joinWords 0xFFFF 0x0000).toInt = (-32768) * (2#16 : Word).toInt + 0 := by decide

theorem witness_DivideOverflows :
    let s := start 0x0200 0 0 [(1, 0x0001), (2, 0x0000)] [(0x300, 0x0002)]
    s.regOf ⟨false, 1⟩ = 1 ∧ s.storable (regAddress 1 + 1#16) = true ∧ s.pairReads 1 = true ∧
    overflows 16 ((joinWords (s.reg 1) (s.peek (regAddress 1 + 1#16))).toInt.tdiv (2#16 : Word).toInt) = true ∧
    s.operandReads (.direct 0x0300) = true ∧ 2#16 = s.peek (s.eff (.direct 0x0300)) ∧
    s.addressReads (.direct 2) = true ∧ 2#16 = s.eff (.direct 2) ∧
    s.operandReads (.direct 0x0400) = true ∧ 0#16 = s.peek (s.eff (.direct 0x0400)) ∧ 0#16 = s.eff (.direct 0) := by
  decide

theorem witness_DoubleAddAndSubtract :
    fresh.regOf ⟨true, 7⟩ = 15 ∧ fresh.storable (regAddress 15 + 1#16) = true ∧ fresh.pairReads 15 = true ∧
    fresh.pairReads 7 = true ∧ fresh.operandReads2 (.direct 0x0300) = true ∧
    fresh.operandReads2 (.direct 0xFFFF) = true := by decide

theorem witness_DoubleRegisterCountShifts :
    fresh.operandReads2 (.direct 0x0300) = true ∧ fresh.storable (fresh.eff (.direct 0x0300)) = true ∧
    fresh.storable (fresh.eff (.direct 0x0300) + 1#16) = true ∧ (fresh.reg (fresh.regOf ⟨false, 3⟩)).toNat % 32 = 4 ∧
    (fresh.reg (fresh.regOf ⟨false, 1⟩)).toNat % 32 = 0 := by decide

theorem witness_ConditionalBranches :
    fresh.addressReads (.direct 0x0300) = true ∧ fresh.operandReadsPre (.indirectIndexed 3 0x0150) = true := by decide

theorem witness_ImmediateCountShifts :
    fresh.operandReads (.direct 0x0088) = true ∧ fresh.storable (fresh.eff (.direct 0x0088)) = true := by decide

theorem witness_DoubleImmediateCountShifts :
    fresh.operandReads2 (.direct 0x008F) = true ∧ fresh.storable (fresh.eff (.direct 0x008F)) = true ∧
    fresh.storable (fresh.eff (.direct 0x008F) + 1#16) = true := by decide

theorem witness_UnconditionalBranches :
    fresh.addressReads (.indexed 3 0xFFFE) = true ∧ fresh.operandReadsPre (.indirect 0x0150) = true := by decide

theorem witness_LoadStatusBlock :
    fresh.operandReads2 (.direct 0x0300) = true ∧ fresh.operandReads2 (.direct 0xFFFF) = true := by decide

theorem witness_StoreStatusBlocks :
    fresh.addressReads (.direct 0x0300) = true ∧ fresh.storable (fresh.eff (.direct 0x0300)) = true ∧
    fresh.storable (fresh.eff (.direct 0x0300) + 1#16) = true ∧ fresh.sound (fresh.eff (.direct 0x0300) + 2#16) = true ∧
    fresh.mode = .supervisor ∧ (fresh.setSt 0x8000).mode = .worker := by decide

theorem witness_StoreBlockAndTransfer :
    fresh.addressReads (.indirect 0x0154) = true ∧ fresh.storable (fresh.eff (.indirect 0x0154)) = true ∧
    fresh.storable (fresh.eff (.indirect 0x0154) + 1#16) = true ∧
    fresh.sound (fresh.eff (.indirect 0x0154) + 2#16) = true := by decide

theorem witness_ModeTransfers :
    fresh.addressReads (.direct 0x0300) = true ∧ fresh.operandReads (.indirectIndexed 3 0x0150) = true := by decide

theorem witness_AddToRegisterAndBranch :
    (0x0003 : Word) = fresh.active 3 + (0xF#4).signExtend 16 ∧ (0 : Word) = (if (3 : RegNo) = 5 then 3 else fresh.active 5) := by
  decide

theorem witness_MemoryCompares :
    (0x0300 : Word) = fresh.active 0 + BitVec.ofNat 16 (0x300#10).toNat ∧
    (0x0004 : Word) = fresh.active 3 + BitVec.ofNat 16 (0#10).toNat ∧ fresh.sound 0x0300 = true ∧
    fresh.sound 0x0004 = true ∧ fresh.sound (0x0004 + 1#16) = true := by decide

theorem witness_MoveAndAddImmediate :
    (0x0300 : Word) = fresh.active 0 + BitVec.ofNat 16 (0x300#10).toNat ∧
    (0x0083 : Word) = fresh.active 0 + BitVec.ofNat 16 (0x083#10).toNat ∧ fresh.sound 0x0300 = true ∧
    fresh.storable 0x0083 = true ∧ fresh.storable 0x0300 = true := by decide

/-- Flag words through the active and the other mode's register 6, and `SETF_CB_POLICY` at `word`. -/
theorem witness_SetFlag :
    (0x0300 : Word) = fresh.reg (fileIndex (if false then otherMode fresh.mode else fresh.mode) 6) +
      BitVec.ofNat 16 (0x300#10).toNat ∧
    (0x0300 : Word) = fresh.reg (fileIndex (if true then otherMode fresh.mode else fresh.mode) 6) +
      BitVec.ofNat 16 (0x300#10).toNat ∧ fresh.sound 0x0300 = true ∧ fresh.storable 0x0300 = true ∧
    Config.setfPolicy { Config.standard with setfPolicy := .word } = .word := by decide

theorem witness_FlagTests :
    (0x0300 : Word) = fresh.reg (fileIndex (if true then otherMode fresh.mode else fresh.mode) 6) +
      BitVec.ofNat 16 (0x300#10).toNat ∧ fresh.sound 0x0300 = true ∧ bit (fresh.peek 0x0300) 15 = true ∧
    bit (fresh.peek 0x0300) 0 ≠ true := by decide

/-- The last line, whose field wraps to line 0, and widths 1 and 16. -/
theorem witness_CruOutputs :
    (0xFFF : CruLine) = BitVec.ofNat 12 ((0#10).toNat + ((start 0 0 0 [(7, 0xFFFF)] []).reg
      (fileIndex (if false then otherMode .supervisor else .supervisor) 7)).toNat) ∧
    (0x300 : Word) = (start 0 0 0 [(7, 0xFFFF)] []).reg
      (fileIndex (if false then otherMode .supervisor else .supervisor) 4) + BitVec.ofNat 16 (0x300#10).toNat ∧
    (start 0 0 0 [(7, 0xFFFF)] []).sound 0x300 = true ∧ (start 0 0 0 [(7, 0xFFFF)] []).hasOutput 0xFFF = true ∧
    (start 0 0 0 [(7, 0xFFFF)] []).hasOutput 0x000 = true := by decide

theorem witness_InputTests :
    (0x110 : CruLine) = BitVec.ofNat 12 ((0x110#10).toNat + (fresh.reg
      (fileIndex (if false then otherMode fresh.mode else fresh.mode) 7)).toNat) ∧
    (0x120 : CruLine) = BitVec.ofNat 12 ((0x120#10).toNat + (fresh.reg
      (fileIndex (if false then otherMode fresh.mode else fresh.mode) 7)).toNat) ∧
    fresh.hasInput 0x110 = true ∧ lineLevel fresh.cru.inputs 0x110 = false ∧ lineLevel fresh.cru.inputs 0x110 ≠ true := by
  decide

/-- Width 4 at lines `0x100` to `0x103`, of which `0x103` is at 1: the word is `0xFFF8`. -/
theorem witness_StoreCommunicationRegister :
    let s := fresh.setCru { fresh.cru with inputs := [0x103] }
    (0x100 : CruLine) = BitVec.ofNat 12 ((0x100#10).toNat +
      (s.reg (fileIndex (if false then otherMode s.mode else s.mode) 7)).toNat) ∧
    (0x300 : Word) = s.reg (fileIndex (if false then otherMode s.mode else s.mode) 4) +
      BitVec.ofNat 16 (0x300#10).toNat ∧ s.storable 0x300 = true ∧
    (∀ k, k < 4 → s.hasInput (0x100 + BitVec.ofNat 12 k) = true) ∧
    (∀ j, j < 16 →
      bit 0xFFF8 (15 - j) = lineLevel s.cru.inputs (0x100 + BitVec.ofNat 12 (if j < 4 then j else 4 - 1))) := by decide

theorem witness_RaisingACause :
    bit fresh.cpu.st 7 = false ∧ bit (fresh.setSt 0x0100).cpu.st 7 = true ∧ fresh.config.maskedPolicy = .hold ∧
    Config.maskedPolicy { Config.standard with maskedPolicy := .drop } = .drop := by decide

theorem witness_InterruptPriority :
    fresh.schedule = [] ∧ fresh.powered = true ∧ fresh.running = true ∧ fresh.clockRuns = true := by decide

/-- Each of the three levels, with SXBS in its location; and an undefined code, a pair of zeros, in the locations. -/
theorem witness_InterruptEntry :
    let s := start 0x0200 0 0 [] linkage
    let z := start 0x0200 0 0 [] []
    (∀ v : Level, (s.recognise v).sound (locationOf v) = true ∧ (s.recognise v).sound (locationOf v + 1#16) = true ∧
      decodeFor s.config (pairOf ((s.recognise v).peek (locationOf v)) ((s.recognise v).peek (locationOf v + 1#16))) =
        some (.sxbs false (.direct (match v with | .internal => 0xA8 | .cru => 0xAC | .dmac => 0xB0)))) ∧
    (∀ v : Level, (z.recognise v).sound (locationOf v) = true ∧ (z.recognise v).sound (locationOf v + 1#16) = true ∧
      decodeFor z.config (pairOf ((z.recognise v).peek (locationOf v)) ((z.recognise v).peek (locationOf v + 1#16))) =
        none) := by
  intro s z
  have out : ∀ v : Level, ¬ (0x96 ≤ (locationOf v).toNat ∧ (locationOf v).toNat ≤ 0xA7) ∧
      ¬ (0x96 ≤ (locationOf v + 1#16).toNat ∧ (locationOf v + 1#16).toNat ≤ 0xA7) := by
    intro v; cases v <;> decide
  refine ⟨fun v => ?_, fun v => ?_⟩
  · have h := s.recognise_storesOnly v
    rw [h.words _ (out v).1, h.words _ (out v).2]
    exact ⟨h.sound _ (by cases v <;> decide), h.sound _ (by cases v <;> decide), by cases v <;> decide⟩
  · have h := z.recognise_storesOnly v
    rw [h.words _ (out v).1, h.words _ (out v).2]
    exact ⟨h.sound _ (by cases v <;> decide), h.sound _ (by cases v <;> decide), by cases v <;> decide⟩

/-- Both values of the parameter of log 20. -/
theorem witness_InterruptEntry_clearing :
    fresh.config.requestClearing = .last ∧
    Config.requestClearing { Config.standard with requestClearing := .first } = .first := by decide

/-- Controllers 0 and 7, the first and the last, and a standard installation. -/
theorem witness_DmacStoresStatus :
    0xA8 ≤ fresh.config.memWords ∧
    (fresh.setDmac { fresh.dmac with intStatus := 0x81#8 }).dmac.intStatus.getLsbD (0 : Fin 8).val = true ∧
    (fresh.setDmac { fresh.dmac with intStatus := 0x81#8 }).dmac.intStatus.getLsbD (7 : Fin 8).val = true := by decide

/-- The turns: an activation to take up and none, a transfer of a task and of none, at `0x90` and at the last address, in the
window and at a protected address, and a report by the last controller there can be, and by one that is not installed. -/
theorem witness_DmacStoresStatus_turns :
    let s := fresh.setDmac
      { fresh.dmac with activations := [(0, 0x0300)], tasks := [{ controller := 7, request := 0, list := 0x0300 }] }
    let few : State := { s with config := { s.config with dmacPorts := 1 } }
    s.powered = true ∧ fresh.dmac.activations = [] ∧ s.dmac.activations = (0, 0x0300) :: [] ∧
    fresh.dmac.tasks.length ≤ 0 ∧ 0 < s.dmac.tasks.length ∧ s.dmac.tasks.length ≤ 1 ∧ s.blocked 0x007F = true ∧
    s.storable 0x0090 = true ∧ ¬ (0x80 ≤ (0x0090#16).toNat ∧ (0x0090#16).toNat < 0x90) ∧ s.storable 0xFFFF = true ∧
    (0x80 ≤ (0x008F#16).toNat ∧ (0x008F#16).toNat < 0x90) ∧ (7 : Fin 8).val < s.config.dmacPorts ∧
    few.config.dmacPorts ≤ (1 : Fin 8).val ∧ (s.dmac.tasks[0]?).map DmacTask.controller = some 7 := by decide

theorem witness_InterruptLinkageAndReturn :
    let s := (start 0x0200 0x0700 0x8000 [] linkage).setPending true
    s.schedule = [] ∧ s.powered = true ∧ s.running = true ∧ s.clockRuns = true ∧ s.cpu.internalPending = true ∧
    bit s.cpu.st bitII = false ∧ s.sound 0x90#16 = true ∧ s.sound 0x91#16 = true ∧ s.peek 0x90#16 = 0x7880#16 ∧
    s.peek 0x91#16 = 0x00A8 ∧ s.storable 0x00A8 = true ∧ s.storable (0x00A8 + 1#16) = true ∧
    s.sound (0x00A8 + 2#16) = true := by decide

/-- The three cases of START, MODE to HALT, a locked panel, and HALT with nothing scheduled. -/
theorem witness_RunControl :
    let s := fresh.setRunning false
    let sie := s.setPanel { s.panel with modeRun := false, sie := true }
    s.powered = true ∧ s.schedule = [] ∧ s.running = false ∧ s.panel.locked = false ∧ s.panel.modeRun = true ∧
    sie.running = false ∧ sie.panel.modeRun = false ∧ sie.panel.sie = true ∧ sie.clockRuns = true ∧
    State.reset.panel.modeRun = false ∧ State.reset.panel.sie = false ∧
    (s.setSchedule [.panel .start]).schedule = .panel .start :: [] ∧
    (s.setSchedule [.panel (.setMode false)]).schedule = .panel (.setMode false) :: [] ∧
    (s.setPanel { s.panel with locked := true }).panel.locked = true ∧ (∀ on, PanelAction.setMpo true ≠ .setLocked on) ∧
    (s.setSchedule [.panel (.setData 1)]).schedule = .panel (.setData 1) :: [] ∧
    (s.setSchedule [.panel (.setLocked false)]).schedule = .panel (.setLocked false) :: [] := by
  decide

/-- START is neither of the two controls that LOCK leaves. -/
theorem witness_RunControl_locked :
    (∀ v, PanelAction.start ≠ .setData v) ∧ (∀ on, PanelAction.start ≠ .setLocked on) :=
  ⟨(fun _ h => by cases h), (fun _ h => by cases h)⟩

theorem witness_ResetSwitch :
    let s := (fresh.setRunning false).setSchedule [.panel .reset]
    s.schedule = .panel .reset :: [] ∧ s.powered = true ∧ s.panel.locked = false ∧ s.running = false := by decide

theorem witness_EnterAndDisplay :
    let s := (fresh.setRunning false).setPanel { fresh.panel with ma := 0xFFFF }
    s.powered = true ∧ s.panel.locked = false ∧ s.running = false ∧ s.storable s.panel.ma = true ∧
    s.sound s.panel.ma = true ∧ (s.panel.ma + 1#16) = 0x0000 := by decide

/-- A suppressed panel write, at the last protected address, and the two switch actions. -/
theorem witness_EnterAndDisplay_suppressed :
    let s := ((fresh.setRunning false).setPanel { fresh.panel with ma := 0x007F }).setSchedule [.panel .enterMd]
    s.powered = true ∧ s.panel.locked = false ∧ s.running = false ∧ s.blocked s.panel.ma = true ∧
    s.schedule = .panel .enterMd :: [] ∧ PanelAction.enterMd = .enterMd := by decide

theorem witness_PowerEvents :
    let s := fresh.setPowered false
    fresh.powered = true ∧ s.powered = false ∧ s.config.hasBattery = false ∧
    (fresh.setSchedule [.powerLossSensed]).schedule = .powerLossSensed :: [] ∧
    (fresh.setSchedule [.powerOff]).schedule = .powerOff :: [] ∧
    Config.hasBattery { Config.standard with hasBattery := true } = true ∧ State.reset.panel.modeRun = false := by decide

end Sys2Proof.Machine
end

section
/-! PROOFS. The family of 10_state.md: what an instruction may change (R40), the register window (R22), one step of the
processor (R26, R377), run control (R49, R410, R412), and the state after reset. -/

namespace Sys2Proof.Machine

/-! ### The register window (R22, R63) -/

section Window

variable (s : State)

/-- `S[r]` is at `0x80 + r`. -/
theorem supervisor_address (r : RegNo) : 0x80#16 + BitVec.ofNat 16 r.val = regAddress (fileIndex .supervisor r) := by
  revert r; decide

/-- `W[r]` is at `0x88 + r`. -/
theorem worker_address (r : RegNo) : 0x88#16 + BitVec.ofNat 16 r.val = regAddress (fileIndex .worker r) := by
  revert r; decide

theorem State.read_regAddress (i : FileIndex) : s.read (regAddress i) = (s.reg i, s) := by
  rw [s.read_sound _ (by simp [State.sound]), State.peek_regAddress]

theorem State.store_regAddress (i : FileIndex) (v : Word) : s.store (regAddress i) v = s.setReg i v := by
  simp [State.store]

/-- No protection guards a register. -/
theorem State.write_regAddress (i : FileIndex) (v : Word) : s.write (regAddress i) v = s.setReg i v := by
  have hs : s.storable (regAddress i) = true := by
    simp [State.storable, State.present, s.not_blocked_regAddress]
  rw [s.write_storable _ _ hs, State.store_regAddress]

end Window

/-- Settles O15: both files are runs of `regAddress`, where a read answers the register and a write sets it. -/
theorem registerWindow : Obligations.RegisterWindow := by
  intro s r v
  rw [supervisor_address, worker_address]
  exact ⟨s.read_regAddress _, s.read_regAddress _, s.write_regAddress _ _, s.write_regAddress _ _⟩

/-! ### The state after reset -/

/-- Settles O12: every list of the reset state is empty, and it is in HALT. -/
theorem resetHasInvariant : Obligations.ResetHasInvariant where
  memory := ⟨rfl, fun _ h => nomatch h⟩
  checks := ⟨List.Pairwise.nil, fun _ h => nomatch h⟩
  lines := ⟨⟨List.Pairwise.nil, fun _ h => nomatch h⟩, ⟨List.Pairwise.nil, fun _ h => nomatch h⟩⟩
  run := fun h => nomatch h

/-! ### One step, by the turn it is (log 4) -/

section Turns

variable {s : State}

theorem step_of_no_schedule (h : s.schedule = []) : step s = s.cpuTurn := by
  simp only [step, State.nextTurn, h]

theorem step_of_schedule {t : Turn} {rest : List Turn} (h : s.schedule = t :: rest) :
    step s = (s.setSchedule rest).takeTurn t := by
  simp only [step, State.nextTurn, h]

theorem State.cpuTurn_of_halt (hp : s.powered = true) (hr : s.running = false) : s.cpuTurn = .next s := by
  simp [State.cpuTurn, hp, hr]

theorem State.clockedStep_of_clock (run : Instr → State → Result) (h : s.clockRuns = true) :
    s.clockedStep run = s.cpuStep run := by
  simp [State.clockedStep, h]

theorem State.cpuTurn_of_run (hp : s.powered = true) (hr : s.running = true) (hc : s.clockRuns = true) :
    s.cpuTurn = s.cpuStep exec := by
  simp [State.cpuTurn, hp, hr, State.clockedStep_of_clock _ hc]

theorem State.cpuStep_of_no_request (run : Instr → State → Result) (h : s.requested = none) :
    s.cpuStep run = s.runNext run := by
  simp only [State.cpuStep, h]

/-- A pair that decodes is executed with the counter moved past it (R26). -/
theorem State.runNext_of_decoded (run : Instr → State → Result) {i : Instr}
    (hd : decodeFor (s.fetch s.lc).2.config (s.fetch s.lc).1 = some i) :
    s.runNext run = run i ((s.fetch s.lc).2.setLc ((s.fetch s.lc).2.lc + 2#16)) := by
  simp only [State.runNext, hd]

end Turns

/-- Settles O6: with no request the sample goes on to the fetch, which is sound. -/
theorem stepRunsTheDecodedInstruction : Obligations.StepRunsTheDecodedInstruction := by
  intro s i hs hp hr hc hq h1 h2 hd
  have hf := s.fetch_sound s.lc h1 h2
  rw [step_of_no_schedule hs, State.cpuTurn_of_run hp hr hc, State.cpuStep_of_no_request _ hq,
    State.runNext_of_decoded exec (i := i) (by rw [hf]; exact hd), hf]
  rfl

/-! ### What the shared ways of writing a result leave alone -/

section Results

variable (s : State) (flags : Word)

/-- The indicators an instruction may write hold the whole comparison code. -/
def writesCB (flags : Word) : Bool := bit flags bitGT && bit flags bitEQ && bit flags bitLT

variable {flags} in
theorem writesCB_iff :
    writesCB flags = true ↔ bit flags bitGT = true ∧ bit flags bitEQ = true ∧ bit flags bitLT = true := by
  simp [writesCB, and_assoc]

theorem local_setCB_of_writes (v : Word) (h : writesCB flags = true) : Local s (s.setCB v) flags := by
  obtain ⟨hgt, heq, hlt⟩ := writesCB_iff.1 h
  exact local_setCB _ _ _ hgt heq hlt

theorem local_setComparison_of_writes (c : Comparison) (h : writesCB flags = true) :
    Local s (s.setComparison c) flags := by
  obtain ⟨hgt, heq, hlt⟩ := writesCB_iff.1 h
  exact local_setComparison _ _ _ hgt heq hlt

theorem local_putQuotient_of_writes (i : FileIndex) (q : Option Quotient) (hoi : bit flags bitOI = true)
    (h : writesCB flags = true) : Local s (s.putQuotient i q) flags := by
  obtain ⟨hgt, heq, hlt⟩ := writesCB_iff.1 h
  exact local_putQuotient _ _ _ _ hoi hgt heq hlt

theorem local_putResult (i : FileIndex) (v : Word) (h : writesCB flags = true) : Local s (s.putResult i v) flags :=
  (local_setReg _ _ _ _).trans (local_setCB_of_writes _ _ _ h)

theorem local_putSum (i : FileIndex) (r : Sum) (hoi : bit flags bitOI = true) (hco : bit flags bitCO = true)
    (h : writesCB flags = true) : Local s (s.putSum i r) flags :=
  (((local_setReg _ _ _ _).trans (local_setOverflow _ _ _ hoi)).trans (local_setCarry _ _ _ hco)).trans
    (local_setCB_of_writes _ _ _ h)

theorem local_putProduct (i : FileIndex) (p : DWord) (h : writesCB flags = true) :
    Local s (s.putProduct i p) flags :=
  (local_writePair _ _ _ _).trans (local_setCB_of_writes _ _ _ h)

theorem local_putSum2 (i : FileIndex) (r : DoubleSum) (hoi : bit flags bitOI = true) (h : writesCB flags = true) :
    Local s (s.putSum2 i r) flags :=
  ((local_writePair _ _ _ _).trans (local_setOverflow _ _ _ hoi)).trans (local_setCB_of_writes _ _ _ h)

theorem local_storeResult (a v : Word) (h : writesCB flags = true) : Local s (s.storeResult a v) flags :=
  (local_write _ _ _ _).trans (local_setCB_of_writes _ _ _ h)

theorem local_storeShift (a v : Word) (ov : Bool) (hoi : bit flags bitOI = true) (h : writesCB flags = true) :
    Local s (s.storeShift a v ov) flags :=
  ((local_write _ _ _ _).trans (local_setOverflow _ _ _ hoi)).trans (local_setCB_of_writes _ _ _ h)

theorem local_storeResult2 (a : Word) (v : DWord) (h : writesCB flags = true) : Local s (s.storeResult2 a v) flags :=
  (local_write2 _ _ _ _).trans (local_setCB_of_writes _ _ _ h)

theorem local_storeShift2 (a : Word) (v : DWord) (ov : Bool) (hoi : bit flags bitOI = true)
    (h : writesCB flags = true) : Local s (s.storeShift2 a v ov) flags :=
  ((local_write2 _ _ _ _).trans (local_setOverflow _ _ _ hoi)).trans (local_setCB_of_writes _ _ _ h)

/-- LDS may write every bit of `ST` (R31, D8). -/
theorem local_loadStatusBlock (ea bias : Word) : Local s (s.loadStatusBlock ea bias) 0xFFFF#16 := by
  have every : ∀ j : Fin 16, bit 0xFFFF#16 j = true := by decide
  exact (((local_read _ _ _).trans (local_read _ _ _)).trans (local_setLc _ _ _)).trans
    (local_setSt _ _ _ (fun j hj => .inl (every ⟨j, hj⟩)))

/-- A message to the DMAC changes neither its status register nor its controllers' words (R252). -/
theorem local_sendActivation (q : BitVec 10 × Word) :
    Local s (s.setDmac { s.dmac with activations := s.dmac.activations ++ [q] }) flags where
  config := rfl
  panel := rfl
  running := rfl
  powered := rfl
  schedule := rfl
  ia := rfl
  inputs := rfl
  interruptLine := rfl
  intStatus := rfl
  controllers := rfl
  status := StatusStep.refl _ _
  guarded := fun _ _ => rfl
  memory := memoryLegal_congr rfl rfl
  checks := checksLegal_congr rfl rfl
  lines := linesLegal_congr rfl

variable {s flags} in
theorem local_ite {c : Prop} [Decidable c] {t u : State} (ht : Local s t flags) (hu : Local s u flags) :
    Local s (if c then t else u) flags := by
  split
  · exact ht
  · exact hu

end Results

/-! ### What an instruction leaves alone -/

/-- The meaning answers a next state, reached by operations that write no indicator outside `flags`. -/
def EndsLocal (s : State) (r : Result) (flags : Word) : Prop := ∃ t, r = .next t ∧ Local s t flags

theorem EndsLocal.next {s t : State} (flags : Word) (h : Local s t flags) : EndsLocal s (.next t) flags :=
  ⟨t, rfl, h⟩

/-- SETF's comparison code is `SETF_CB_POLICY`'s, and on either policy it writes the code and no other indicator (C8). -/
theorem execSETF_local (am : Bool) (flag : FlagRef) (v1 : Bool) (s : State) :
    EndsLocal s (execSETF am flag v1 s) maskCB := by
  unfold execSETF
  have stored (a v : Word) := (local_read s maskCB a).trans (local_write _ _ a v)
  cases s.config.setfPolicy with
  | any =>
    exact .next maskCB (((stored _ _).trans (local_useFree ..)).trans (local_setComparison_of_writes (h := rfl) ..))
  | word => exact .next maskCB ((stored _ _).trans (local_setCB_of_writes (h := rfl) ..))

/-- Every instruction answers a next state, and writes no indicator but those R40 gives it, beside `MP` and `MV` for its own
accesses. The arms are the lines of the table, by the operand they take and the way they write their result. -/
theorem exec_local (i : Instr) (s : State) : EndsLocal s (exec i s) (flagsWritten i) := by
  cases i with
  | l | lot | n | or | xor => exact .next maskCB ((local_operand ..).trans (local_putResult (h := rfl) ..))
  | la | lota | na | ora | xora => exact .next maskCB ((local_form ..).trans (local_putResult (h := rfl) ..))
  | a | s =>
    exact .next (maskOI ||| maskCO ||| maskCB)
      ((local_operand ..).trans (local_putSum (hoi := rfl) (hco := rfl) (h := rfl) ..))
  | aa | sa =>
    exact .next (maskOI ||| maskCO ||| maskCB)
      ((local_form ..).trans (local_putSum (hoi := rfl) (hco := rfl) (h := rfl) ..))
  | cr | crl => exact .next maskCB ((local_operand ..).trans (local_setComparison_of_writes (h := rfl) ..))
  | cra | crla => exact .next maskCB ((local_form ..).trans (local_setComparison_of_writes (h := rfl) ..))
  | m => exact .next maskCB ((local_operand ..).trans (local_putProduct (h := rfl) ..))
  | ma => exact .next maskCB ((local_form ..).trans (local_putProduct (h := rfl) ..))
  | d =>
    exact .next (maskOI ||| maskCB) (((local_operand ..).trans (local_readPair ..)).trans
      (local_putQuotient_of_writes (hoi := rfl) (h := rfl) ..))
  | da =>
    exact .next (maskOI ||| maskCB) (((local_form ..).trans (local_readPair ..)).trans
      (local_putQuotient_of_writes (hoi := rfl) (h := rfl) ..))
  | dad | ds =>
    exact .next (maskOI ||| maskCB)
      (((local_operand2 ..).trans (local_readPair ..)).trans (local_putSum2 (hoi := rfl) (h := rfl) ..))
  | st | stps => exact .next maskCB ((local_form ..).trans (local_storeResult (h := rfl) ..))
  | mrax | mrrx | mra | mrr => exact .next maskCB ((local_operand ..).trans (local_storeResult (h := rfl) ..))
  | mlax | mla =>
    exact .next (maskOI ||| maskCB) ((local_operand ..).trans (local_storeShift (hoi := rfl) (h := rfl) ..))
  | drax | drlx | drrx | dra | drl | drr =>
    exact .next maskCB ((local_operand2 ..).trans (local_storeResult2 (h := rfl) ..))
  | dlax | dla =>
    exact .next (maskOI ||| maskCB) ((local_operand2 ..).trans (local_storeShift2 (hoi := rfl) (h := rfl) ..))
  | sat =>
    exact .next (maskCO ||| maskCB) (((((local_operand ..).trans (local_write ..)).trans (local_setReg ..)).trans
      (local_setCarry (h := rfl) ..)).trans (local_setCB_of_writes (h := rfl) ..))
  | bl => exact .next 0#16 (((local_form ..).trans (local_setReg ..)).trans (local_setLc ..))
  | starBL => exact .next 0#16 (((local_operandPre ..).trans (local_setReg ..)).trans (local_setLc ..))
  | bc => exact .next 0#16 (local_ite ((local_form ..).trans (local_setLc ..)) (local_form ..))
  | starBC => exact .next 0#16 (local_ite ((local_operandPre ..).trans (local_setLc ..)) (local_operandPre ..))
  | b => exact .next 0#16 ((local_form ..).trans (local_setLc ..))
  | starB => exact .next 0#16 ((local_operandPre ..).trans (local_setLc ..))
  | nop => exact .next 0#16 (Local.refl ..)
  | lds => exact .next 0xFFFF#16 ((local_form ..).trans (local_loadStatusBlock ..))
  | ss => exact .next 0#16 ((local_form ..).trans (local_storeStatusBlock ..))
  | ssb =>
    exact .next 0#16 ((((local_form ..).trans (local_storeStatusBlock ..)).trans (local_read ..)).trans (local_setLc ..))
  | sxbs =>
    exact .next maskMI (((((local_form ..).trans (local_storeStatusBlock ..)).trans (local_setMode (h := rfl) ..)).trans
      (local_read ..)).trans (local_setPc ..))
  | sxbw =>
    exact .next maskMI (((((local_form ..).trans (local_storeStatusBlock ..)).trans (local_setMode (h := rfl) ..)).trans
      (local_read ..)).trans (local_setEc ..))
  | sxs | sxw =>
    exact .next maskMI (((local_form ..).trans (local_storeStatusBlock ..)).trans (local_setMode (h := rfl) ..))
  | xs | xw => exact .next maskMI (local_setMode (h := rfl) ..)
  | xsb => exact .next maskMI (((local_form ..).trans (local_setMode (h := rfl) ..)).trans (local_setPc ..))
  | xwb => exact .next maskMI (((local_form ..).trans (local_setMode (h := rfl) ..)).trans (local_setEc ..))
  | starXSB =>
    exact .next maskMI
      ((((local_form ..).trans (local_setMode (h := rfl) ..)).trans (local_read ..)).trans (local_setPc ..))
  | starXWB =>
    exact .next maskMI
      ((((local_form ..).trans (local_setMode (h := rfl) ..)).trans (local_read ..)).trans (local_setEc ..))
  | arb =>
    exact .next maskCB
      (local_ite ((local_putResult (h := rfl) ..).trans (local_setLc ..)) (local_putResult (h := rfl) ..))
  | adac => exact .next 0#16 (local_ite (Local.refl ..) (local_sendActivation ..))
  | cm => exact .next 0#16 (((local_read ..).trans (local_read ..)).trans (local_skip ..))
  | cml => exact .next 0#16 ((((local_read ..).trans (local_read ..)).trans (local_read ..)).trans (local_skip ..))
  | cmi => exact .next 0#16 ((local_read ..).trans (local_skip ..))
  | mov => exact .next maskCB ((local_read ..).trans (local_storeResult (h := rfl) ..))
  | brrl => exact .next 0#16 ((local_setReg ..).trans (local_setLc ..))
  | ami =>
    exact .next (maskOI ||| maskCO ||| maskCB)
      (((((local_read ..).trans (local_write ..)).trans (local_setOverflow (h := rfl) ..)).trans
      (local_setCarry (h := rfl) ..)).trans (local_setCB_of_writes (h := rfl) ..))
  | setf => exact execSETF_local ..
  | xfne => exact .next maskMI ((local_read ..).trans (local_switchUnless (h := rfl) ..))
  | bfne => exact .next 0#16 ((local_read ..).trans (local_branchUnless ..))
  | setb => exact .next 0#16 (local_cruOut ..)
  | xbne => exact .next maskMI ((local_cruIn ..).trans (local_switchUnless (h := rfl) ..))
  | bbne => exact .next 0#16 ((local_cruIn ..).trans (local_branchUnless ..))
  | tsbx =>
    exact .next maskMI (local_ite ((local_cruIn ..).trans (local_cruOut ..))
      (local_ite (local_cruIn ..) ((local_cruIn ..).trans (local_switchMode (h := rfl) ..))))
  | ldcr => exact .next 0#16 ((local_read ..).trans (local_putField ..))
  | stcr => exact .next maskCB ((local_getField ..).trans (local_storeResult (h := rfl) ..))

/-- An instruction's next state comes from `s` by operations that write no indicator outside its own. -/
theorem local_of_exec {i : Instr} {s t : State} (h : exec i s = .next t) : Local s t (flagsWritten i) := by
  obtain ⟨u, hu, hl⟩ := exec_local i s
  cases hu.symm.trans h
  exact hl

/-- Settles O9: the status part of what an instruction leaves alone. -/
theorem indicatorsWritten : Obligations.IndicatorsWritten := fun _ _ _ h => (local_of_exec h).status

/-! ### What the processor's own step leaves alone -/

/-- The run state, the power, the panel, the installation and the schedule are as they were: the processor changes none of
them (R7, R49). -/
structure SameControl (s t : State) : Prop where
  config : t.config = s.config
  panel : t.panel = s.panel
  running : t.running = s.running
  powered : t.powered = s.powered
  schedule : t.schedule = s.schedule

section Control

variable {s t u : State}

theorem SameControl.refl (s : State) : SameControl s s := ⟨rfl, rfl, rfl, rfl, rfl⟩

theorem SameControl.trans (h1 : SameControl s t) (h2 : SameControl t u) : SameControl s u where
  config := h2.config.trans h1.config
  panel := h2.panel.trans h1.panel
  running := h2.running.trans h1.running
  powered := h2.powered.trans h1.powered
  schedule := h2.schedule.trans h1.schedule

theorem Local.sameControl {flags : Word} (h : Local s t flags) : SameControl s t :=
  ⟨h.config, h.panel, h.running, h.powered, h.schedule⟩

variable (s)

theorem State.store_sameControl (a v : Word) : SameControl s (s.store a v) := by
  constructor <;> simp

theorem State.setLc_sameControl (v : Word) : SameControl s (s.setLc v) := by
  constructor <;> simp

theorem State.useFree_sameControl : SameControl s s.useFree := ⟨rfl, rfl, rfl, rfl, rfl⟩

theorem State.setDmac_sameControl (d : Dmac) : SameControl s (s.setDmac d) := ⟨rfl, rfl, rfl, rfl, rfl⟩

theorem State.setPending_sameControl (b : Bool) : SameControl s (s.setPending b) := ⟨rfl, rfl, rfl, rfl, rfl⟩

theorem State.raiseInternal_sameControl (c : Cause) : SameControl s (s.raiseInternal c) := by
  constructor <;> simp

theorem State.read_sameControl (a : Word) : SameControl s (s.read a).2 := by
  constructor <;> simp

theorem State.maskAfter_sameControl (v : Level) : SameControl s (s.maskAfter v) := by
  rw [State.maskAfter_eq]
  exact ⟨rfl, rfl, rfl, rfl, rfl⟩

theorem State.fetch_sameControl (a : Word) : SameControl s (s.fetch a).2 :=
  ((s.read_sameControl _).trans (State.read_sameControl _ _)).trans ⟨rfl, rfl, rfl, rfl, rfl⟩

theorem State.undefinedCode_sameControl : SameControl s s.undefinedCode := by
  unfold State.undefinedCode
  split
  · exact (s.setLc_sameControl _).trans (State.raiseInternal_sameControl _ _)
  · exact s.raiseInternal_sameControl _

theorem State.storeController_sameControl (c : Fin 8) : SameControl s (s.storeController c) := by
  unfold State.storeController
  split
  · exact (s.store_sameControl _ _).trans (State.store_sameControl _ _ _)
  · exact SameControl.refl s

theorem State.storeControllers_sameControl (l : List (Fin 8)) : SameControl s (l.foldl State.storeController s) := by
  induction l generalizing s with
  | nil => exact SameControl.refl s
  | cons c l ih => exact (s.storeController_sameControl c).trans (ih _)

theorem State.storeDmacStatus_sameControl : SameControl s s.storeDmacStatus := by
  unfold State.storeDmacStatus
  exact (((s.store_sameControl _ _).trans (State.useFree_sameControl _)).trans
    (State.storeControllers_sameControl _ _)).trans (State.setDmac_sameControl _ _)

theorem State.recognise_sameControl (v : Level) : SameControl s (s.recognise v) := by
  cases v with
  | internal =>
    simp only [State.recognise]
    split
    · exact SameControl.refl s
    · exact s.setPending_sameControl false
  | cru => exact SameControl.refl s
  | dmac => exact s.storeDmacStatus_sameControl

variable {s}

theorem exec_sameControl {i : Instr} (h : exec i s = .next t) : SameControl s t := (local_of_exec h).sameControl

theorem State.runNext_sameControl (h : s.runNext exec = .next t) : SameControl s t := by
  refine (s.fetch_sameControl s.lc).trans ?_
  simp only [State.runNext] at h
  split at h
  · cases h
    exact State.undefinedCode_sameControl _
  · exact (State.setLc_sameControl _ _).trans (exec_sameControl h)

theorem State.runLocation_sameControl {v : Level} (h : s.runLocation exec v = .next t) : SameControl s t := by
  refine (s.fetch_sameControl (locationOf v)).trans ?_
  simp only [State.runLocation] at h
  split at h
  · cases h
    exact State.raiseInternal_sameControl _ _
  · exact exec_sameControl h

/-- An entry that ends in a next state is the location's instruction, then the masks (R381). -/
theorem finishEntry_next {v : Level} {r : Result} (h : finishEntry v r = .next t) :
    ∃ u, r = .next u ∧ t = u.maskAfter v := by
  cases r with
  | next u => exact ⟨u, rfl, by cases h; rfl⟩
  | fault => cases h
  | refused => cases h

theorem State.takeInterrupt_sameControl {v : Level} (h : s.takeInterrupt exec v = .next t) : SameControl s t := by
  obtain ⟨u, hu, rfl⟩ := finishEntry_next h
  exact ((s.recognise_sameControl v).trans (State.runLocation_sameControl hu)).trans (u.maskAfter_sameControl v)

/-- One step of R377 neither starts nor halts the machine, nor moves a switch. -/
theorem State.cpuStep_sameControl (h : s.cpuStep exec = .next t) : SameControl s t := by
  simp only [State.cpuStep] at h
  split at h
  · exact State.takeInterrupt_sameControl h
  · exact State.runNext_sameControl h

end Control

/-! ### The controls of the panel (R410, R412) -/

section Panel

variable {s : State} {rest : List Turn}

/-- LOCK leaves the DATA switches and the LOCK/UNLOCK switch, and no other control (R43, R410; log 18). -/
theorem PanelAction.lockable_of_ne {act : PanelAction} (hd : ∀ v, act ≠ .setData v) (hl : ∀ on, act ≠ .setLocked on) :
    act.lockable = true := by
  cases act with
  | setData v => exact absurd rfl (hd v)
  | setLocked on => exact absurd rfl (hl on)
  | _ => rfl

theorem State.panelAct_locked (run : Instr → State → Result) {act : PanelAction} (ha : act.lockable = true)
    (hl : s.panel.locked = true) : s.panelAct run act = .next s := by
  simp [State.panelAct, ha, hl]

theorem State.panelAct_unlocked (run : Instr → State → Result) (act : PanelAction) (hl : s.panel.locked = false)
    (hp : s.powered = true) : s.panelAct run act = s.panelUnlocked run act := by
  simp [State.panelAct, hl, hp]

theorem State.panelAct_unlockable (run : Instr → State → Result) {act : PanelAction} (ha : act.lockable = false) :
    s.panelAct run act = s.panelUnlocked run act := by
  simp [State.panelAct, ha]

/-- A scheduled action of the operator at an unlocked panel. -/
theorem step_of_panel {act : PanelAction} (hp : s.powered = true) (hl : s.panel.locked = false)
    (h : s.schedule = .panel act :: rest) : step s = (s.setSchedule rest).panelUnlocked exec act :=
  (step_of_schedule h).trans (State.panelAct_unlocked exec act hl hp)

/-- START with MODE at RUN. -/
theorem State.panelStart_of_run (run : Instr → State → Result) (hr : s.running = false) (hm : s.panel.modeRun = true) :
    s.panelStart run = .next (s.setRunning true) := by
  simp [State.panelStart, hr, hm]

/-- START with MODE at HALT and SIE on (D36). -/
theorem State.panelStart_of_sie (run : Instr → State → Result) (hr : s.running = false)
    (hm : s.panel.modeRun = false) (he : s.panel.sie = true) (hc : s.clockRuns = true) :
    s.panelStart run = s.cpuStep run := by
  simp [State.panelStart, hr, hm, he, State.clockedStep_of_clock run hc]

/-- START with MODE at HALT and SIE off. -/
theorem State.panelStart_of_halt (run : Instr → State → Result) (hr : s.running = false)
    (hm : s.panel.modeRun = false) (he : s.panel.sie = false) : s.panelStart run = .next s := by
  simp [State.panelStart, hr, hm, he]

/-- START executes one step and the machine stays in HALT (R412, D36). -/
theorem step_of_single (hp : s.powered = true) (hl : s.panel.locked = false) (h : s.schedule = .panel .start :: rest)
    (hr : s.running = false) (hm : s.panel.modeRun = false) (he : s.panel.sie = true) (hc : s.clockRuns = true) :
    step s = (s.setSchedule rest).cpuStep exec ∧ ∀ t, step s = .next t → t.running = false := by
  have hstep : step s = (s.setSchedule rest).cpuStep exec :=
    (step_of_panel hp hl h).trans (State.panelStart_of_sie exec hr hm he hc)
  refine ⟨hstep, fun t ht => ?_⟩
  exact (State.cpuStep_sameControl (hstep.symm.trans ht)).running.trans hr

end Panel

/-- Settles O56: each control by the arm of the panel it is, the single step with the frame of the processor's step. -/
theorem runControl : Obligations.RunControl := by
  intro s rest
  refine ⟨fun hp => ⟨?halt, ?start, ?mode⟩, ?locked, ?data, ?lock⟩
  case halt =>
    intro h hr
    exact (step_of_no_schedule h).trans (State.cpuTurn_of_halt hp hr)
  case start =>
    intro hl h hr
    refine ⟨fun hm => ?_, step_of_single hp hl h hr, fun hm he => ?_⟩
    · exact (step_of_panel hp hl h).trans (State.panelStart_of_run exec hr hm)
    · exact (step_of_panel hp hl h).trans (State.panelStart_of_halt exec hr hm he)
  case mode =>
    intro hl h
    exact ⟨(s.setSchedule rest).setModeSwitch false, step_of_panel hp hl h, rfl, rfl⟩
  case locked =>
    intro act hl hd hk h
    exact (step_of_schedule h).trans (State.panelAct_locked exec (PanelAction.lockable_of_ne hd hk) hl)
  case data =>
    intro v h
    exact (step_of_schedule h).trans (State.panelAct_unlockable exec rfl)
  case lock =>
    intro on h
    exact (step_of_schedule h).trans (State.panelAct_unlockable exec rfl)

end Sys2Proof.Machine
end

section
/-! PROOFS. The family of 20_memory.md: the memory list and its canonical form (R60, R63, R75), protection (R70 to R72), the
DMAC's stores (R76, R386), and the invariant that every turn of every agent keeps. -/

namespace Sys2Proof.Machine

/-! ### The canonical form of the memory list (log 5) -/

section Canonical

theorem Memory.readByte_of_absent {m : Memory} {k : Nat} (h : ∀ c ∈ m, c.1 ≠ k) : m.readByte k = 0#8 := by
  induction m with
  | nil => rfl
  | cons c m ih =>
    simp only [Memory.readByte, if_neg (h c (List.mem_cons_self ..))]
    exact ih (fun d hd => h d (List.mem_cons_of_mem _ hd))

/-- Cell numbers rise, so that a listed cell is the first of its number. -/
theorem Memory.readByte_of_mem {m : Memory} {c : Host.Cell} (hp : m.Pairwise (fun x y => x.1 < y.1)) (hc : c ∈ m) :
    m.readByte c.1 = c.2 := by
  induction m with
  | nil => cases hc
  | cons d m ih =>
    obtain ⟨hlt, hp⟩ := List.pairwise_cons.1 hp
    rcases List.mem_cons.1 hc with rfl | hc
    · simp [Memory.readByte]
    · have hne : d.1 ≠ c.1 := Nat.ne_of_lt (hlt c hc)
      simp only [Memory.readByte, if_neg hne]
      exact ih hp hc

/-- The cells a canonical list holds are those that read as something other than 0. -/
theorem Memory.mem_iff_readByte {m : Memory} (hm : m.wf = true) (c : Host.Cell) :
    c ∈ m ↔ m.readByte c.1 = c.2 ∧ c.2 ≠ 0#8 := by
  obtain ⟨hp, hz⟩ := m.wf_iff.1 hm
  refine ⟨fun hc => ⟨Memory.readByte_of_mem hp hc, hz c hc⟩, fun ⟨hr, hv⟩ => ?_⟩
  by_contra hc
  refine hv (hr.symm.trans (Memory.readByte_of_absent (fun d hd he => hc ?_)))
  have hd2 : d.2 = c.2 := (Memory.readByte_of_mem hp hd).symm.trans ((congrArg _ he).trans hr)
  exact Prod.ext he hd2 ▸ hd

/-- Lists of rising cell numbers with the same cells are equal. -/
theorem Memory.eq_of_same_cells {m n : Memory} (hm : m.Pairwise (fun x y => x.1 < y.1))
    (hn : n.Pairwise (fun x y => x.1 < y.1)) (h : ∀ c, c ∈ m ↔ c ∈ n) : m = n := by
  have distinct {l : Memory} (hl : l.Pairwise (fun x y => x.1 < y.1)) : l.Nodup :=
    hl.imp (fun hlt he => Nat.ne_of_lt hlt (congrArg Prod.fst he))
  refine ((List.perm_ext_iff_of_nodup (distinct hm) (distinct hn)).2 h).eq_of_pairwise ?_ hm hn
  intro c d _ _ hlt hgt
  exact absurd hgt (Nat.lt_asymm hlt)

end Canonical

/-- Settles O14: a canonical list is determined by the bytes it reads as, and a write keeps it canonical. -/
theorem canonicalMemory : Obligations.CanonicalMemory := by
  refine ⟨fun m n hm hn h => ?_, fun m k v hm => ⟨m.wf_writeByte k v hm, m.readByte_writeByte k v⟩⟩
  refine Memory.eq_of_same_cells (m.wf_iff.1 hm).1 (n.wf_iff.1 hn).1 (fun c => ?_)
  rw [Memory.mem_iff_readByte hm, Memory.mem_iff_readByte hn, h]

/-! ### A read after a write (R63, R75) -/

section ReadAfterWrite

variable (s : State)

/-- A store writes the check bits with the word (R48). -/
theorem State.sound_store_self (a v : Word) (h : s.present a = true) : (s.store a v).sound a = true := by
  unfold State.present at h
  unfold State.sound State.store
  cases hp : placeOf a with
  | register i => rfl
  | memory k =>
    rw [hp] at h
    have hi : k < s.config.memWords := by simpa [State.installed] using h
    simp [State.installed, hi]

theorem State.present_of_storable {a : Word} (h : s.storable a = true) : s.present a = true := by
  simp only [State.storable, Bool.and_eq_true] at h
  exact h.2

end ReadAfterWrite

/-- Settles O13: a write that protection allows is a store, and the word it leaves is sound. -/
theorem readAfterWrite : Obligations.ReadAfterWrite := by
  intro s a v b h
  have read_back : (s.write a v).read a = (v, s.write a v) := by
    rw [s.write_storable a v h, State.read_sound _ _ (s.sound_store_self a v (s.present_of_storable h)),
      ← s.write_storable a v h, s.peek_write_storable a v a h, if_pos rfl]
  exact ⟨read_back, s.peek_write_ne a v b, s.write_storable_st a v h⟩

/-! ### What the processor's operations keep of memory -/

/-- No control has moved, no guarded word has changed, and the lists of memory, of bad words and of lines keep their forms:
`Local` without the status word and the devices, so that it holds of an interrupt entry too. -/
structure Keeps (s t : State) : Prop where
  control : SameControl s t
  guarded : ∀ a, s.blocked a = true → t.peek a = s.peek a
  memory : s.memoryLegal → t.memoryLegal
  checks : s.checksLegal → t.checksLegal
  lines : s.linesLegal → t.linesLegal

section Keeping

variable {s t u : State}

theorem Local.keeps {flags : Word} (h : Local s t flags) : Keeps s t :=
  ⟨h.sameControl, h.guarded, h.memory, h.checks, h.lines⟩

theorem Keeps.refl (s : State) : Keeps s s := (Local.refl s 0#16).keeps

theorem Keeps.trans (h1 : Keeps s t) (h2 : Keeps t u) : Keeps s u where
  control := h1.control.trans h2.control
  guarded := fun a ha =>
    (h2.guarded a ((State.blocked_congr h1.control.config h1.control.panel a).trans ha)).trans (h1.guarded a ha)
  memory := fun h => h2.memory (h1.memory h)
  checks := fun h => h2.checks (h1.checks h)
  lines := fun h => h2.lines (h1.lines h)

/-- An update that moves no control and touches neither the registers nor memory nor the lines. -/
theorem Keeps.of_fields (hc : SameControl s t) (hr : t.cpu.regs = s.cpu.regs) (hm : t.mem = s.mem)
    (hf : t.checkFails = s.checkFails) (hl : t.cru = s.cru) : Keeps s t where
  control := hc
  guarded := fun a _ => State.peek_congr hr hm a
  memory := memoryLegal_congr hm hc.config
  checks := checksLegal_congr hf hc.config
  lines := linesLegal_congr hl

variable (s)

theorem State.setIa_keeps (v : Word) : Keeps s (s.setIa v) := .of_fields ⟨rfl, rfl, rfl, rfl, rfl⟩ rfl rfl rfl rfl

theorem State.setDmac_keeps (d : Dmac) : Keeps s (s.setDmac d) := .of_fields (s.setDmac_sameControl d) rfl rfl rfl rfl

theorem State.raiseInternal_keeps (c : Cause) : Keeps s (s.raiseInternal c) := by
  apply Keeps.of_fields (s.raiseInternal_sameControl c) <;> simp

theorem State.maskAfter_keeps (v : Level) : Keeps s (s.maskAfter v) := by
  apply Keeps.of_fields (s.maskAfter_sameControl v) <;> rw [State.maskAfter_eq] <;> rfl

theorem State.fetch_keeps (a : Word) : Keeps s (s.fetch a).2 :=
  (((local_read s 0#16 _).trans (local_read _ _ _)).keeps.trans (State.setIa_keeps _ _)).trans (local_setIb _ 0#16 _).keeps

theorem State.undefinedCode_keeps : Keeps s s.undefinedCode := by
  unfold State.undefinedCode
  split
  · exact (local_setLc s 0#16 _).keeps.trans (State.raiseInternal_keeps _ _)
  · exact s.raiseInternal_keeps _

/-- The controllers' words stand at `0x98` to `0xA7`, which no protection guards (R66, R70). -/
theorem controllerAddress_range (c : Fin 8) :
    (0x98 ≤ (controllerAddress c).toNat ∧ (controllerAddress c).toNat ≤ 0xA7) ∧
    0x98 ≤ (controllerAddress c + 1#16).toNat ∧ (controllerAddress c + 1#16).toNat ≤ 0xA7 := by
  revert c; decide

theorem State.storeStatusWords_keeps (c : Fin 8) (words : ControllerStatus) : Keeps s (s.storeStatusWords c words) := by
  obtain ⟨⟨hlo, hhi⟩, hlo', hhi'⟩ := controllerAddress_range c
  exact ((local_store _ 0#16 _ _ (s.not_blocked_of_low _ (by omega) hhi)).trans
    (local_store _ _ _ _ (State.not_blocked_of_low _ _ (by omega) hhi'))).keeps

theorem State.storeController_keeps (c : Fin 8) : Keeps s (s.storeController c) := by
  unfold State.storeController
  split
  · exact s.storeStatusWords_keeps c _
  · exact Keeps.refl s

theorem State.storeControllers_keeps (l : List (Fin 8)) : Keeps s (l.foldl State.storeController s) := by
  induction l generalizing s with
  | nil => exact Keeps.refl s
  | cons c l ih => exact (s.storeController_keeps c).trans (ih _)

theorem State.storeDmacStatus_keeps : Keeps s s.storeDmacStatus :=
  ((((local_store s 0#16 _ _ (s.not_blocked_of_low _ (by decide) (by decide))).trans (local_useFree _ _)).keeps.trans
    (State.storeControllers_keeps _ _)).trans (State.setDmac_keeps _ _))

theorem State.recognise_keeps (v : Level) : Keeps s (s.recognise v) := by
  cases v with
  | internal =>
    simp only [State.recognise]
    split
    · exact Keeps.refl s
    · exact (local_setPending s 0#16 false).keeps
  | cru => exact Keeps.refl s
  | dmac => exact s.storeDmacStatus_keeps

variable {s}

theorem exec_keeps {i : Instr} (h : exec i s = .next t) : Keeps s t := (local_of_exec h).keeps

theorem State.runNext_keeps (h : s.runNext exec = .next t) : Keeps s t := by
  refine (s.fetch_keeps s.lc).trans ?_
  simp only [State.runNext] at h
  split at h
  · cases h
    exact State.undefinedCode_keeps _
  · exact (local_setLc _ 0#16 _).keeps.trans (exec_keeps h)

theorem State.runLocation_keeps {v : Level} (h : s.runLocation exec v = .next t) : Keeps s t := by
  refine (s.fetch_keeps (locationOf v)).trans ?_
  simp only [State.runLocation] at h
  split at h
  · cases h
    exact State.raiseInternal_keeps _ _
  · exact exec_keeps h

theorem State.takeInterrupt_keeps {v : Level} (h : s.takeInterrupt exec v = .next t) : Keeps s t := by
  obtain ⟨u, hu, rfl⟩ := finishEntry_next h
  exact ((s.recognise_keeps v).trans (State.runLocation_keeps hu)).trans (u.maskAfter_keeps v)

/-- One step of R377: an interrupt entry or one instruction. -/
theorem State.cpuStep_keeps (h : s.cpuStep exec = .next t) : Keeps s t := by
  simp only [State.cpuStep] at h
  split at h
  · exact State.takeInterrupt_keeps h
  · exact State.runNext_keeps h

theorem State.clockedStep_keeps (h : s.clockedStep exec = .next t) : Keeps s t := by
  simp only [State.clockedStep] at h
  split at h
  · exact State.cpuStep_keeps h
  · cases h

/-- The processor's turn: nothing in HALT, one step in RUN. -/
theorem State.cpuTurn_keeps (h : s.cpuTurn = .next t) : Keeps s t := by
  simp only [State.cpuTurn] at h
  split at h
  · split at h
    · exact State.clockedStep_keeps h
    · cases h
      exact Keeps.refl s
  · cases h

end Keeping

/-- Settles O10: with an empty schedule the turn is the processor's, which keeps every guarded word. -/
theorem protectedWordsKept : Obligations.ProtectedWordsKept := by
  intro s t a hs h
  exact (State.cpuTurn_keeps ((step_of_no_schedule hs).symm.trans h)).guarded a

/-! ### The storing instructions, where their operands read without an error -/

section Storing

variable (s : State) (reg : RegRef) (count : Nat) {adr : Address}

theorem State.form_of_reads (h : s.addressReads adr = true) :
    s.form adr = { ea := s.eff adr, after := s.setIb (s.eff adr) } := s.form_sound adr h

theorem State.operand_of_reads (h : s.operandReads adr = true) :
    s.operand adr = { ea := s.eff adr, eo := s.peek (s.eff adr), after := s.setIb (s.eff adr) } := by
  obtain ⟨haddr, hword⟩ := (s.operandReads_iff adr).1 h
  exact s.operand_sound adr haddr hword

theorem State.operand2_of_reads (h : s.operandReads2 adr = true) :
    s.operand2 adr = { ea := s.eff adr, eo := s.peek2 (s.eff adr), after := s.setIb (s.eff adr) } := by
  obtain ⟨haddr, hhi, hlo⟩ := (s.operandReads2_iff adr).1 h
  exact s.operand2_sound adr haddr hhi hlo

theorem exec_st_of_reads (h : s.addressReads adr = true) :
    exec (.st reg adr) s = .next ((s.setIb (s.eff adr)).storeResult (s.eff adr) (s.reg (s.regOf reg))) := by
  show execST reg adr s = _
  simp only [execST, s.form_of_reads h, State.reg_setIb]

theorem exec_stps_of_reads (h : s.addressReads adr = true) :
    exec (.stps adr) s = .next ((s.setIb (s.eff adr)).storeResult (s.eff adr) s.panel.data) := by
  show execSTPS adr s = _
  simp only [execSTPS, s.form_of_reads h, State.setIb_panel]

theorem exec_mlax_of_reads (h : s.operandReads adr = true) :
    exec (.mlax reg adr) s = .next ((s.setIb (s.eff adr)).storeShift (s.eff adr)
      (s.peek (s.eff adr) <<< count16 (s.reg (s.regOf reg)))
      (shiftOverflow (s.peek (s.eff adr)) (count16 (s.reg (s.regOf reg))))) := by
  show execMLAX reg adr s = _
  simp only [execMLAX, s.operand_of_reads h, State.reg_setIb]

theorem exec_mrax_of_reads (h : s.operandReads adr = true) :
    exec (.mrax reg adr) s = .next ((s.setIb (s.eff adr)).storeResult (s.eff adr)
      ((s.peek (s.eff adr)).sshiftRight (count16 (s.reg (s.regOf reg))))) := by
  show execMRAX reg adr s = _
  simp only [execMRAX, s.operand_of_reads h, State.reg_setIb, shiftRightArith]

theorem exec_mrrx_of_reads (h : s.operandReads adr = true) :
    exec (.mrrx reg adr) s = .next ((s.setIb (s.eff adr)).storeResult (s.eff adr)
      ((s.peek (s.eff adr)).rotateRight (count16 (s.reg (s.regOf reg))))) := by
  show execMRRX reg adr s = _
  simp only [execMRRX, s.operand_of_reads h, State.reg_setIb, rotateRight]

theorem exec_mla_of_reads (h : s.operandReads adr = true) :
    exec (.mla count adr) s = .next ((s.setIb (s.eff adr)).storeShift (s.eff adr) (s.peek (s.eff adr) <<< count)
      (shiftOverflow (s.peek (s.eff adr)) count)) := by
  show execMLA count adr s = _
  simp only [execMLA, s.operand_of_reads h]

theorem exec_mra_of_reads (h : s.operandReads adr = true) :
    exec (.mra count adr) s =
      .next ((s.setIb (s.eff adr)).storeResult (s.eff adr) ((s.peek (s.eff adr)).sshiftRight count)) := by
  show execMRA count adr s = _
  simp only [execMRA, s.operand_of_reads h, shiftRightArith]

theorem exec_mrr_of_reads (h : s.operandReads adr = true) :
    exec (.mrr count adr) s =
      .next ((s.setIb (s.eff adr)).storeResult (s.eff adr) ((s.peek (s.eff adr)).rotateRight count)) := by
  show execMRR count adr s = _
  simp only [execMRR, s.operand_of_reads h, rotateRight]

theorem exec_dlax_of_reads (h : s.operandReads2 adr = true) :
    exec (.dlax reg adr) s = .next ((s.setIb (s.eff adr)).storeShift2 (s.eff adr)
      (s.peek2 (s.eff adr) <<< count32 (s.reg (s.regOf reg)))
      (shiftOverflow (s.peek2 (s.eff adr)) (count32 (s.reg (s.regOf reg))))) := by
  show execDLAX reg adr s = _
  simp only [execDLAX, s.operand2_of_reads h, State.reg_setIb]

theorem exec_drax_of_reads (h : s.operandReads2 adr = true) :
    exec (.drax reg adr) s = .next ((s.setIb (s.eff adr)).storeResult2 (s.eff adr)
      ((s.peek2 (s.eff adr)).sshiftRight (count32 (s.reg (s.regOf reg))))) := by
  show execDRAX reg adr s = _
  simp only [execDRAX, s.operand2_of_reads h, State.reg_setIb, shiftRightArith]

theorem exec_drlx_of_reads (h : s.operandReads2 adr = true) :
    exec (.drlx reg adr) s = .next ((s.setIb (s.eff adr)).storeResult2 (s.eff adr)
      (s.peek2 (s.eff adr) >>> count32 (s.reg (s.regOf reg)))) := by
  show execDRLX reg adr s = _
  simp only [execDRLX, s.operand2_of_reads h, State.reg_setIb, shiftRightLogical]

theorem exec_drrx_of_reads (h : s.operandReads2 adr = true) :
    exec (.drrx reg adr) s = .next ((s.setIb (s.eff adr)).storeResult2 (s.eff adr)
      ((s.peek2 (s.eff adr)).rotateRight (count32 (s.reg (s.regOf reg))))) := by
  show execDRRX reg adr s = _
  simp only [execDRRX, s.operand2_of_reads h, State.reg_setIb, rotateRight]

theorem exec_dla_of_reads (h : s.operandReads2 adr = true) :
    exec (.dla count adr) s = .next ((s.setIb (s.eff adr)).storeShift2 (s.eff adr) (s.peek2 (s.eff adr) <<< count)
      (shiftOverflow (s.peek2 (s.eff adr)) count)) := by
  show execDLA count adr s = _
  simp only [execDLA, s.operand2_of_reads h]

theorem exec_dra_of_reads (h : s.operandReads2 adr = true) :
    exec (.dra count adr) s =
      .next ((s.setIb (s.eff adr)).storeResult2 (s.eff adr) ((s.peek2 (s.eff adr)).sshiftRight count)) := by
  show execDRA count adr s = _
  simp only [execDRA, s.operand2_of_reads h, shiftRightArith]

theorem exec_drl_of_reads (h : s.operandReads2 adr = true) :
    exec (.drl count adr) s =
      .next ((s.setIb (s.eff adr)).storeResult2 (s.eff adr) (s.peek2 (s.eff adr) >>> count)) := by
  show execDRL count adr s = _
  simp only [execDRL, s.operand2_of_reads h, shiftRightLogical]

theorem exec_drr_of_reads (h : s.operandReads2 adr = true) :
    exec (.drr count adr) s =
      .next ((s.setIb (s.eff adr)).storeResult2 (s.eff adr) ((s.peek2 (s.eff adr)).rotateRight count)) := by
  show execDRR count adr s = _
  simp only [execDRR, s.operand2_of_reads h, rotateRight]

end Storing

/-! ### SAT (R184) -/

section Tally

variable (s : State)

theorem bit_shiftLeft_one (v : Word) (j : Nat) : bit (v <<< 1) j = bit v (j + 1) := by
  simp [bit]

/-- The leading zeros are the bits before the first 1. -/
theorem leadingZeros_eq (v : Word) (n k : Nat) (hz : ∀ j, j < n → bit v j = false) (ho : n < k → bit v n = true)
    (hn : n ≤ k) : leadingZeros v k = n := by
  induction k generalizing v n with
  | zero => simp only [leadingZeros]; omega
  | succ k ih =>
    have hmsb : v.msb = bit v 0 := rfl
    cases n with
    | zero => simp [leadingZeros, hmsb, ho (by omega)]
    | succ n =>
      have step := ih (v <<< 1) n (fun j hj => (bit_shiftLeft_one v j).trans (hz (j + 1) (by omega)))
        (fun hk => (bit_shiftLeft_one v n).trans (ho (by omega))) (by omega)
      simp only [leadingZeros, hmsb, hz 0 (by omega), step]
      simp [Nat.add_comm]

theorem exec_sat_suppressed (reg : RegRef) {adr : Address} (h : s.operandReads adr = true)
    (hb : s.blocked (s.eff adr) = true) {n : Nat} (hn : clz16 (s.peek (s.eff adr)) = n) :
    exec (.sat reg adr) s =
      .next (((((s.setIb (s.eff adr)).raiseInternal .mv).setReg (s.regOf reg)
        (s.reg (s.regOf reg) + BitVec.ofNat 16 n)).setCarry
        (add16 (s.reg (s.regOf reg)) (BitVec.ofNat 16 n)).carry).setCB (s.reg (s.regOf reg) + BitVec.ofNat 16 n)) := by
  have hb' : (s.setIb (s.eff adr)).blocked (s.eff adr) = true := hb
  show execSAT reg adr s = _
  simp only [execSAT, s.operand_of_reads h, State.write_blocked _ _ _ hb', hn, State.reg_raiseInternal,
    State.reg_setIb]
  rfl

/-- A sum put in a register after a suppressed store: MV is raised, and the register, `CO` and the code are written. -/
theorem frame_raise_putTally (e v : Word) (i : FileIndex) (carry : Bool) :
    Frame (s.raiseInternal .mv) (((((s.setIb e).raiseInternal .mv).setReg i v).setCarry carry).setCB v)
      [regAddress i] (maskCO ||| maskCB) := by
  refine Frame.of_setIb_raise s (e := e) ?_
  constructor
  · intro a ha
    have hne : a ≠ regAddress i := by simpa using ha
    simp [State.peek_setReg, hne]
  · rw [State.setCB_st, withComparison_masked _ _ _ (by decide), State.setCarry_st,
      setBit_masked _ _ _ _ (by decide) (by decide)]
    rfl
  all_goals first | rfl | exact fun _ h => h

theorem carry_add16_ofNat (x : Word) {n : Nat} (hn : n ≤ 16) :
    (add16 x (BitVec.ofNat 16 n)).carry = decide (0x10000 ≤ x.toNat + n) := by
  have hlt : n % 65536 = n := Nat.mod_eq_of_lt (by omega)
  simp [add16, hlt]

end Tally

/-! ### Words and double words (R70, D10) -/

section Suppression

variable (s : State)

/-- The shifts of one word, ST, STPS and SAT, by the way each writes its result. -/
theorem State.suppressedWords : s.SuppressedWords := by
  rintro reg adr e oi rfl rfl haddr hb
  refine ⟨?st, ?stps, ?shifts⟩
  case st => rw [exec_st_of_reads s reg haddr]; exact suppressesResult s _ _ _ hb
  case stps => rw [exec_stps_of_reads s haddr]; exact suppressesResult s _ _ _ hb
  case shifts =>
    rintro v c count n hsound rfl rfl
    have hr : s.operandReads adr = true := (s.operandReads_iff adr).2 ⟨haddr, hsound⟩
    rw [← count16_eq, ← shiftOverflow_eq, ← shiftOverflow_eq, exec_mlax_of_reads s reg hr, exec_mrax_of_reads s reg hr,
      exec_mrrx_of_reads s reg hr, exec_mla_of_reads s count hr, exec_mra_of_reads s count hr,
      exec_mrr_of_reads s count hr]
    refine ⟨suppressesShift s _ _ _ _ hb, suppressesResult s _ _ _ hb, suppressesResult s _ _ _ hb,
      suppressesShift s _ _ _ _ hb, suppressesResult s _ _ _ hb, suppressesResult s _ _ _ hb, ?sat⟩
    intro hz ho hn
    refine ⟨_, exec_sat_suppressed s reg hr hb (leadingZeros_eq _ n 16 hz ho hn), ?_, ?_,
      comparisonIs_withComparison _ _ _ rfl, ?_, ?_, frame_raise_putTally s _ _ _ _⟩
    · simp
    · rw [State.setCB_bit _ _ _ (by decide), State.setCarry_bit _ _ _ (by decide), carry_add16_ofNat _ hn]
      rfl
    · simp [SameCounters]
    · simp [SameDevices]

/-- The shifts of a double word, by the way each writes its result. -/
theorem State.suppressedDoubleWords : s.SuppressedDoubleWords := by
  rintro reg adr e v oi c count rfl rfl hr hb rfl rfl
  rw [← count32_eq, ← shiftOverflow_eq, ← shiftOverflow_eq, exec_dlax_of_reads s reg hr, exec_drax_of_reads s reg hr,
    exec_drlx_of_reads s reg hr, exec_drrx_of_reads s reg hr, exec_dla_of_reads s count hr, exec_dra_of_reads s count hr,
    exec_drl_of_reads s count hr, exec_drr_of_reads s count hr]
  exact ⟨suppressesShift2 s _ _ _ _ hb, suppressesResult2 s _ _ _ hb, suppressesResult2 s _ _ _ hb,
    suppressesResult2 s _ _ _ hb, suppressesShift2 s _ _ _ _ hb, suppressesResult2 s _ _ _ hb,
    suppressesResult2 s _ _ _ hb, suppressesResult2 s _ _ _ hb⟩

end Suppression

/-! ### Frames of the updates that store nothing -/

section Frames

variable (s : State)

theorem Frame.refl (m : Word) : Frame s s [] m := by
  apply Frame.of_fields <;> rfl

theorem frame_setMode (m : Mode) : Frame s (s.setMode m) [] maskMI := by
  apply Frame.of_fields
  case hst => exact setBit_masked _ _ _ _ (by decide) (by decide)
  all_goals rfl

theorem frame_setComparison (c : Comparison) : Frame s (s.setComparison c) [] maskCB := by
  apply Frame.of_fields
  case hst => exact withComparison_masked _ _ _ (by decide)
  all_goals rfl

theorem frame_setLc (v m : Word) : Frame s (s.setLc v) [] m := by
  apply Frame.of_fields <;> simp

theorem frame_setPc (v m : Word) : Frame s (s.setPc v) [] m := by
  apply Frame.of_fields <;> rfl

theorem frame_setEc (v m : Word) : Frame s (s.setEc v) [] m := by
  apply Frame.of_fields <;> rfl

theorem frame_useFree (m : Word) : Frame s s.useFree [] m := by
  apply Frame.of_fields <;> rfl

end Frames

/-! ### Status blocks (R221, log 35) -/

section Blocks

variable (s : State) (rq : Bool) {adr : Address}

/-- The state a status block is stored in, by an instruction whose effective address is formed without an error. -/
def State.blockStored (s : State) (adr : Address) (counter : Word) : State :=
  (s.setIb (s.eff adr)).storeStatusBlock (s.eff adr) counter

@[simp] theorem State.storeStatusBlock_pc (e c : Word) : (s.storeStatusBlock e c).cpu.pc = s.cpu.pc := by
  simp [State.storeStatusBlock]
@[simp] theorem State.storeStatusBlock_ec (e c : Word) : (s.storeStatusBlock e c).cpu.ec = s.cpu.ec := by
  simp [State.storeStatusBlock]
@[simp] theorem State.storeStatusBlock_mode (e c : Word) : (s.storeStatusBlock e c).mode = s.mode := by
  simp [State.storeStatusBlock]

@[simp] theorem State.blockStored_pc (c : Word) : (s.blockStored adr c).cpu.pc = s.cpu.pc := by simp [State.blockStored]
@[simp] theorem State.blockStored_ec (c : Word) : (s.blockStored adr c).cpu.ec = s.cpu.ec := by simp [State.blockStored]
@[simp] theorem State.blockStored_mode (c : Word) : (s.blockStored adr c).mode = s.mode := by simp [State.blockStored]

theorem word_add_two_ne (a : Word) : a + 2#16 ≠ a := by bv_omega

theorem word_add_two_ne_succ (a : Word) : a + 2#16 ≠ a + 1#16 := by bv_omega

/-- The word after a status block reads as it stood before the block was stored. -/
theorem State.blockStored_read (c : Word) (h : s.sound (s.eff adr + 2#16) = true) :
    (s.blockStored adr c).sound (s.eff adr + 2#16) = true ∧
    (s.blockStored adr c).peek (s.eff adr + 2#16) = s.peek (s.eff adr + 2#16) := by
  refine ⟨State.sound_write _ _ _ _ (State.sound_write _ _ _ _ h), ?_⟩
  simp only [State.blockStored, State.storeStatusBlock]
  rw [State.peek_write_ne _ _ _ _ (word_add_two_ne_succ _), State.peek_write_ne _ _ _ _ (word_add_two_ne _),
    State.peek_setIb]

theorem exec_ss_of_reads (h : s.addressReads adr = true) :
    exec (.ss rq adr) s = .next (s.blockStored adr (s.lc - s.bias rq s.mode)) := by
  show execSS rq adr s = _
  simp only [execSS, s.form_of_reads h, State.lc_setIb, State.bias_setIb, State.blockStored]

theorem exec_sxs_of_reads (h : s.addressReads adr = true) :
    exec (.sxs rq adr) s = .next ((s.blockStored adr (s.cpu.pc - s.bias rq .supervisor)).setMode .supervisor) := by
  show execSXS rq adr s = _
  simp only [execSXS, s.form_of_reads h, State.setIb_pc, State.bias_setIb, State.blockStored]

theorem exec_sxw_of_reads (h : s.addressReads adr = true) :
    exec (.sxw rq adr) s = .next ((s.blockStored adr (s.cpu.ec - s.bias rq .worker)).setMode .worker) := by
  show execSXW rq adr s = _
  simp only [execSXW, s.form_of_reads h, State.setIb_ec, State.bias_setIb, State.blockStored]

theorem exec_ssb_of_reads (h : s.addressReads adr = true) (h2 : s.sound (s.eff adr + 2#16) = true) :
    exec (.ssb rq adr) s = .next ((s.blockStored adr (s.lc - s.bias rq s.mode)).setLc
      (s.peek (s.eff adr + 2#16) + s.bias rq s.mode)) := by
  obtain ⟨hsound, hpeek⟩ := s.blockStored_read (s.lc - s.bias rq s.mode) h2
  have hread := State.read_sound _ _ hsound
  rw [hpeek] at hread
  simp only [State.blockStored] at hread
  show execSSB rq adr s = _
  simp only [execSSB, s.form_of_reads h, State.lc_setIb, State.bias_setIb, hread, State.blockStored]

theorem exec_sxbs_of_reads (h : s.addressReads adr = true) (h2 : s.sound (s.eff adr + 2#16) = true) :
    exec (.sxbs rq adr) s =
      .next (((s.blockStored adr (s.cpu.pc - s.bias rq .supervisor)).setMode .supervisor).setPc
        (s.peek (s.eff adr + 2#16) + s.bias rq .supervisor)) := by
  obtain ⟨hsound, hpeek⟩ := s.blockStored_read (s.cpu.pc - s.bias rq .supervisor) h2
  have hread := State.read_sound ((s.blockStored adr (s.cpu.pc - s.bias rq .supervisor)).setMode .supervisor) _ hsound
  rw [State.peek_setMode, hpeek] at hread
  simp only [State.blockStored] at hread
  show execSXBS rq adr s = _
  simp only [execSXBS, s.form_of_reads h, State.setIb_pc, State.bias_setIb, hread, State.blockStored]

theorem exec_sxbw_of_reads (h : s.addressReads adr = true) (h2 : s.sound (s.eff adr + 2#16) = true) :
    exec (.sxbw rq adr) s =
      .next (((s.blockStored adr (s.cpu.ec - s.bias rq .worker)).setMode .worker).setEc
        (s.peek (s.eff adr + 2#16) + s.bias rq .worker)) := by
  obtain ⟨hsound, hpeek⟩ := s.blockStored_read (s.cpu.ec - s.bias rq .worker) h2
  have hread := State.read_sound ((s.blockStored adr (s.cpu.ec - s.bias rq .worker)).setMode .worker) _ hsound
  rw [State.peek_setMode, hpeek] at hread
  simp only [State.blockStored] at hread
  show execSXBW rq adr s = _
  simp only [execSXBW, s.form_of_reads h, State.setIb_ec, State.bias_setIb, hread, State.blockStored]

/-- A block of which a word is suppressed, then what changes the mode and the counters and stores nothing. -/
theorem suppressesBlock_of_blockStored {c pc ec : Word} {mode : Mode} {t : State}
    (h : s.blocked (s.eff adr) = true ∨ s.blocked (s.eff adr + 1#16) = true)
    (hm : t.mode = mode) (hpc : t.cpu.pc = pc) (hec : t.cpu.ec = ec) (hd : SameDevices (s.blockStored adr c) t)
    (hf : Frame (s.blockStored adr c) t [] maskMI) : SuppressesBlock s (.next t) (s.eff adr) c mode pc ec := by
  obtain ⟨hcounter, hstatus, -, hdev, hframe⟩ := (s.setIb (s.eff adr)).storeStatusBlock_suppressed (s.eff adr) c h
  have hw (b : Word) : t.peek b = (s.blockStored adr c).peek b := hf.words b (by simp)
  refine ⟨t, rfl, fun hs => (hw _).trans (hcounter hs), fun hs => (hw _).trans (hstatus hs), hm, hpc, hec,
    ⟨hd.1.trans hdev.1, hd.2.trans hdev.2⟩, ?_⟩
  exact (hframe.of_setIb_raise.mono (fun i _ _ => by simp [bit])).trans_nil hf

theorem State.setLc_pc (v : Word) : (s.setLc v).cpu.pc = if s.mode = .supervisor then v else s.cpu.pc := by
  unfold State.setLc
  cases s.mode <;> rfl

theorem State.setLc_ec (v : Word) : (s.setLc v).cpu.ec = if s.mode = .worker then v else s.cpu.ec := by
  unfold State.setLc
  cases s.mode <;> rfl

/-- The six instructions that store a status block: the block, then the transfer or the branch. -/
theorem State.suppressedBlocks : s.SuppressedBlocks := by
  rintro rq adr e b bs bw rfl h hb hbias hs hw
  obtain rfl : b = s.bias rq s.mode := hbias
  obtain rfl : bs = s.bias rq .supervisor := hs
  obtain rfl : bw = s.bias rq .worker := hw
  refine ⟨?ss, ?sxs, ?sxw, fun h2 => ⟨?ssb, ?sxbs, ?sxbw⟩⟩
  case ss =>
    rw [exec_ss_of_reads s rq h]
    exact suppressesBlock_of_blockStored s hb (by simp) (by simp) (by simp) ⟨rfl, rfl⟩ (Frame.refl _ _)
  case sxs =>
    rw [exec_sxs_of_reads s rq h]
    exact suppressesBlock_of_blockStored s hb (by simp) (by simp) (by simp) (by simp [SameDevices]) (frame_setMode _ _)
  case sxw =>
    rw [exec_sxw_of_reads s rq h]
    exact suppressesBlock_of_blockStored s hb (by simp) (by simp) (by simp) (by simp [SameDevices]) (frame_setMode _ _)
  case ssb =>
    rw [exec_ssb_of_reads s rq h h2]
    exact suppressesBlock_of_blockStored s hb (by simp) (by simp [State.setLc_pc]) (by simp [State.setLc_ec])
      (by simp [SameDevices]) (frame_setLc _ _ _)
  case sxbs =>
    rw [exec_sxbs_of_reads s rq h h2]
    exact suppressesBlock_of_blockStored s hb (by simp) (by simp) (by simp) (by simp [SameDevices])
      ((frame_setMode _ _).trans_nil (frame_setPc _ _ _))
  case sxbw =>
    rw [exec_sxbw_of_reads s rq h h2]
    exact suppressesBlock_of_blockStored s hb (by simp) (by simp) (by simp) (by simp [SameDevices])
      ((frame_setMode _ _).trans_nil (frame_setEc _ _ _))

end Blocks

/-! ### MOV, AMI, SETF and STCR -/

section Groups

variable (s : State)

theorem State.baseAddress_eq (o : BaseRef) : s.baseAddress o = s.active o.base + BitVec.ofNat 16 o.disp.toNat :=
  extend10_add _ _

theorem exec_mov_of_reads (op1 op2 : BaseRef) (h : s.sound (s.baseAddress op1) = true) :
    exec (.mov op1 op2) s = .next (s.storeResult (s.baseAddress op2) (s.peek (s.baseAddress op1))) := by
  show execMOV op1 op2 s = _
  simp only [execMOV, s.read_sound _ h]

theorem exec_ami_of_reads (op1 : BaseRef) (value : BitVec 13) (h : s.sound (s.baseAddress op1) = true) :
    exec (.ami op1 value) s =
      .next ((((s.write (s.baseAddress op1) (s.peek (s.baseAddress op1) + value.signExtend 16)).setOverflow
        (add16 (s.peek (s.baseAddress op1)) (value.signExtend 16)).overflow).setCarry
        (add16 (s.peek (s.baseAddress op1)) (value.signExtend 16)).carry).setCB
        (s.peek (s.baseAddress op1) + value.signExtend 16)) := by
  show execAMI op1 value s = _
  simp only [execAMI, s.read_sound _ h]
  rfl

/-- A result stored with no address formed: `IB` is as it was. -/
theorem suppressesResult_here (a v : Word) (h : s.blocked a = true) :
    SuppressesStore s (.next (s.storeResult a v)) v maskCB (bit s.cpu.st bitOI) := by
  have same : s.setIb s.cpu.ib = s := rfl
  have hr := suppressesResult s s.cpu.ib a v h
  rwa [same] at hr

theorem suppressesSum (a v : Word) (ov carry : Bool) (h : s.blocked a = true) :
    SuppressesStore s (.next ((((s.write a v).setOverflow ov).setCarry carry).setCB v)) v
      (maskOI ||| maskCO ||| maskCB) ov := by
  rw [s.write_blocked a v h]
  refine ⟨_, rfl, comparisonIs_withComparison _ _ _ rfl, ?_, by simp [SameCounters], by simp [SameDevices], ?_⟩
  · rw [State.setCB_bit _ _ _ (by decide), State.setCarry_bit _ _ _ (by decide), State.setOverflow_bit _ _ _ (by decide)]
    rfl
  · apply Frame.of_fields
    case hst =>
      rw [State.setCB_st, withComparison_masked _ _ _ (by decide), State.setCarry_st,
        setBit_masked _ _ _ _ (by decide) (by decide), State.setOverflow_st,
        setBit_masked _ _ _ _ (by decide) (by decide)]
    all_goals rfl

theorem overflow_add16_extend (x : Word) (value : BitVec 13) :
    (add16 x (value.signExtend 16)).overflow = overflows 16 (x.toInt + value.toInt) := by
  rw [← outside_eq]
  simp [add16, BitVec.toInt_signExtend_of_le]

/-- SETF at a suppressed word: MV, and the code that `SETF_CB_POLICY` gives (D19). -/
theorem exec_setf_suppressed (am : Bool) (flag : FlagRef) (v1 : Bool) (h : s.sound (s.flagAddress am flag.m) = true)
    (hb : s.blocked (s.flagAddress am flag.m) = true) :
    ∃ u c, exec (.setf am flag v1) s = .next (u.setComparison c) ∧
      (s.config.setfPolicy = .word → c = compareZero (setBit (s.peek (s.flagAddress am flag.m)) flag.b.val v1)) ∧
      (u = s.raiseInternal .mv ∨ u = (s.raiseInternal .mv).useFree) := by
  have arm : exec (.setf am flag v1) s = execSETF am flag v1 s := rfl
  rw [arm]
  simp only [execSETF, s.read_sound _ h, s.write_blocked _ _ hb]
  cases s.config.setfPolicy with
  | any => exact ⟨_, _, rfl, (fun hp => nomatch hp), .inr rfl⟩
  | word => exact ⟨_, _, rfl, fun _ => rfl, .inl rfl⟩

/-- A field whose top bit is copied to every bit at its left, bit by bit (R289). -/
theorem bit_extendField (x : Word) {width j : Nat} (hw : 1 ≤ width) (hw' : width ≤ 16) (hj : j < 16) :
    bit (extendField x width) (15 - j) = bit x (15 - if j < width then j else width - 1) := by
  have hbit : ∀ (w : Word) (k : Nat), k < 16 → bit w (15 - k) = w.getLsbD k := by
    intro w k hk
    rw [bit, BitVec.getMsbD_eq_getLsbD]
    simp [show 15 - k < 16 by omega, show 15 - (15 - k) = k by omega]
  rw [hbit _ _ hj, hbit _ _ (by split <;> omega), extendField, shiftRightArith, BitVec.getLsbD_sshiftRight]
  by_cases h : j < width
  · simp [h, show ¬ 16 ≤ j by omega, show 16 - width + j < 16 by omega]
    rfl
  · simp [h, show ¬ 16 ≤ j by omega, show ¬ 16 - width + j < 16 by omega, BitVec.msb_eq_getLsbD_last,
      show ¬ 15 < 16 - width by omega, show 15 - (16 - width) = width - 1 by omega]
    rfl

/-- STCR from lines that all have a module: the field read, its top bit copied to the left (R289). -/
theorem exec_stcr_of_reads (am : Bool) (m n : BitVec 10) {width : Nat} {v : Word} (hw : 1 ≤ width) (hw' : width ≤ 16)
    (hin : ∀ k, k < width → s.hasInput (s.cruAddress am m + BitVec.ofNat 12 k) = true)
    (hv : ∀ j, j < 16 → bit v (15 - j) =
      lineLevel s.cru.inputs (s.cruAddress am m + BitVec.ofNat 12 (if j < width then j else width - 1))) :
    exec (.stcr am m width n) s = .next (s.storeResult (s.dataAddress am n) v) := by
  obtain ⟨hstate, hbits⟩ := s.getField_installed (s.cruAddress am m) width hw' hin
  have hval : extendField (s.getField (s.cruAddress am m) width).1 width = v := by
    refine word_ext (fun i hi => ?_)
    obtain ⟨j, hj, rfl⟩ : ∃ j, j < 16 ∧ i = 15 - j := ⟨15 - i, by omega, by omega⟩
    have hlt : (if j < width then j else width - 1) < width := by split <;> omega
    rw [bit_extendField _ hw hw' hj, hbits _ (by omega), if_pos hlt, hv j hj]
  show execSTCR am m width n s = _
  simp only [execSTCR, hstate, hval]

/-- The instructions of Groups II and III that store. -/
theorem State.suppressedGroupWords : s.SuppressedGroupWords := by
  refine ⟨?group2, ?setf, ?stcr⟩
  case group2 =>
    rintro op1 op2 value a a2 x oi rfl rfl hs rfl rfl
    rw [← State.baseAddress_eq] at hs
    rw [← State.baseAddress_eq, ← State.baseAddress_eq]
    refine ⟨fun hb => ?_, fun hb => ⟨?_, ?_⟩⟩
    · rw [exec_mov_of_reads s op1 op2 hs]
      exact suppressesResult_here s _ _ hb
    · rw [exec_ami_of_reads s op1 value hs, ← overflow_add16_extend]
      exact suppressesSum s _ _ _ _ hb
    · intro t ht
      cases (exec_ami_of_reads s op1 value hs).symm.trans ht
      rw [State.setCB_bit _ _ _ (by decide), State.setCarry_bit _ _ _ (by decide)]
      rfl
  case setf =>
    rintro am flag v1 a w rfl hs hb hw
    rw [← extend10_add] at hs hb hw
    obtain ⟨u, c, he, hc, hu⟩ := exec_setf_suppressed s am flag v1 hs hb
    have hword : setBit (s.peek (s.flagAddress am flag.m)) flag.b.val v1 = w := by
      refine word_ext (fun j hj => ?_)
      rw [bit_setBit _ _ _ _ flag.b.isLt hj, hw j hj]
      simp only [eq_comm (a := j)]
      rfl
    rw [hword] at hc
    have hframe : Frame (s.raiseInternal .mv) u [] maskCB := by
      rcases hu with rfl | rfl
      · exact Frame.refl _ _
      · exact frame_useFree _ _
    have hfields : SameCounters s u ∧ SameDevices s u := by
      rcases hu with rfl | rfl <;> simp [SameCounters, SameDevices]
    exact ⟨_, c, he, comparisonIs_withComparison _ _ _ rfl, hc, hfields.1, hfields.2,
      hframe.trans_nil (frame_setComparison u c)⟩
  case stcr =>
    rintro am m n width line a v rfl rfl hb hw hw' hin hv
    rw [← extend10_add] at hb
    rw [← lineOf_add] at hin hv
    rw [exec_stcr_of_reads s am m n hw hw' hin hv]
    exact suppressesResult_here s _ _ hb

end Groups

/-! ### The protected range (R70, R71) -/

section Range

variable (s : State) (a v : Word)

theorem State.isProtected_iff :
    s.isProtected a = true ↔
      a.toNat ≤ (limitAddress s.config.protectLimit).toNat ∧ (a.toNat < 0x80 ∨ 0xA7 < a.toNat) := by
  simp only [State.isProtected, Bool.and_eq_true, decide_eq_true_eq, Bool.not_eq_true', Bool.and_eq_false_iff,
    decide_eq_false_iff_not, Nat.not_le]

theorem State.blocked_of_protected (hp : s.isProtected a = true) (hm : s.panel.mpo = false) : s.blocked a = true := by
  simp [State.blocked, hp, hm]

theorem State.not_blocked_of (h : s.isProtected a = false ∨ s.panel.mpo = true) : s.blocked a = false := by
  rcases h with h | h <;> simp [State.blocked, h]

/-- A suppressed write raises MV and changes no word (R70, R375). -/
theorem State.write_protected (h : s.blocked a = true) :
    s.write a v = s.raiseInternal .mv ∧ bit (s.write a v).cpu.st bitMV = true ∧
    ∀ b, (s.write a v).peek b = s.peek b := by
  rw [s.write_blocked a v h]
  exact ⟨rfl, s.raiseInternal_bit .mv bitMV (by decide), s.peek_raiseInternal .mv⟩

/-- An instruction whose one store is suppressed leaves MV at 1 and every word alone. -/
theorem SuppressesStore.raises {r : Result} {x : Word} {oi : Bool} (h : SuppressesStore s r x maskCB oi) :
    ∃ t, r = .next t ∧ t.comparisonIs (compareZero x) ∧ bit t.cpu.st bitMV = true ∧ SameCounters s t ∧
      SameDevices s t ∧ ∀ b, t.peek b = s.peek b := by
  obtain ⟨t, hr, hcode, -, hcount, hdev, hframe⟩ := h
  refine ⟨t, hr, hcode, ?_, hcount, hdev, fun b => (hframe.words b (by simp)).trans (s.peek_raiseInternal .mv b)⟩
  exact (bit_of_masked hframe.status (by decide) (by decide)).trans (s.raiseInternal_bit .mv bitMV (by decide))

end Range

/-- Settles O16: the range and one write by the definitions of R70, each instruction by the way it writes its result. -/
theorem protectedWriteRaises : Obligations.ProtectedWriteRaises := by
  intro s a v
  refine ⟨?range, ?blocked, ?stored, ?st, s.suppressedWords, s.suppressedDoubleWords, s.suppressedBlocks,
    s.suppressedGroupWords⟩
  case range =>
    rw [s.isProtected_iff]
    cases s.config.protectLimit <;> rfl
  case blocked => exact fun hp hm => s.write_protected a v (s.blocked_of_protected a hp hm)
  case stored =>
    intro h
    simp [State.write, s.not_blocked_of a h]
  case st =>
    rintro reg adr haddr rfl hp hm
    rw [exec_st_of_reads s reg haddr]
    exact (suppressesResult s _ _ _ (s.blocked_of_protected _ hp hm)).raises

/-! ### A word stored outside the register window -/

section Outside

variable (s : State) {a : Word} (v : Word)

theorem placeOf_of_memory (h : ¬ (0x80 ≤ a.toNat ∧ a.toNat < 0x90)) : placeOf a = .memory a.toNat := by
  simp [placeOf, h]

theorem placeOf_of_window (h : 0x80 ≤ a.toNat ∧ a.toNat < 0x90) : ∃ i, placeOf a = .register i := by
  simp [placeOf, h]

/-- A store outside the register window leaves the processor alone. -/
theorem State.store_cpu (h : ¬ (0x80 ≤ a.toNat ∧ a.toNat < 0x90)) : (s.store a v).cpu = s.cpu := by
  simp only [State.store, placeOf_of_memory h]
  split <;> rfl

theorem State.present_of_lt (h : a.toNat < s.config.memWords) : s.present a = true := by
  unfold State.present
  cases hp : placeOf a with
  | register i => rfl
  | memory k => simpa [State.installed, toNat_of_placeOf hp] using h

theorem State.peek_store_self (h : a.toNat < s.config.memWords) : (s.store a v).peek a = v := by
  simp [State.peek_store, s.present_of_lt h]

end Outside

/-! ### One controller's words (R66) -/

section StatusWords

variable (s : State) (c : Fin 8) (words : ControllerStatus)

theorem State.storeStatusWords_cpu : (s.storeStatusWords c words).cpu = s.cpu := by
  obtain ⟨⟨hlo, -⟩, hlo', -⟩ := controllerAddress_range c
  exact (State.store_cpu _ _ (by omega)).trans (s.store_cpu _ (by omega))

@[simp] theorem State.storeStatusWords_dmac : (s.storeStatusWords c words).dmac = s.dmac := by
  simp [State.storeStatusWords]

@[simp] theorem State.storeStatusWords_cru : (s.storeStatusWords c words).cru = s.cru := by
  simp [State.storeStatusWords]

theorem State.peek_storeStatusWords (h : 0xA8 ≤ s.config.memWords) :
    (s.storeStatusWords c words).peek (controllerAddress c) = words.first ∧
    (s.storeStatusWords c words).peek (controllerAddress c + 1#16) = words.second := by
  obtain ⟨⟨-, hhi⟩, -, hhi'⟩ := controllerAddress_range c
  refine ⟨?_, State.peek_store_self _ _ (by rw [State.store_config]; omega)⟩
  exact (State.peek_store_ne _ _ _ _ (word_ne_succ _)).trans (s.peek_store_self _ (by omega))

theorem State.peek_storeStatusWords_ne {a : Word} (h : a ≠ controllerAddress c ∧ a ≠ controllerAddress c + 1#16) :
    (s.storeStatusWords c words).peek a = s.peek a :=
  (State.peek_store_ne _ _ _ _ h.2).trans (s.peek_store_ne _ _ _ h.1)

end StatusWords

/-! ### The words of every controller that interrupted (R386) -/

section Controllers

variable (s : State)

theorem State.storeController_cpu (c : Fin 8) : (s.storeController c).cpu = s.cpu := by
  unfold State.storeController
  split
  · exact s.storeStatusWords_cpu _ _
  · rfl

@[simp] theorem State.storeController_dmac (c : Fin 8) : (s.storeController c).dmac = s.dmac := by
  unfold State.storeController
  split <;> simp

/-- An address that is none of an interrupting controller's. -/
def Dmac.spares (d : Dmac) (a : Word) (c : Fin 8) : Prop :=
  d.intStatus.getLsbD c.val = true → a ≠ controllerAddress c ∧ a ≠ controllerAddress c + 1#16

theorem State.peek_storeController_spared {a : Word} {c : Fin 8} (h : s.dmac.spares a c) :
    (s.storeController c).peek a = s.peek a := by
  unfold State.storeController
  split
  · rename_i hb
    exact s.peek_storeStatusWords_ne c _ (h hb)
  · rfl

/-- Controllers have places of their own. -/
theorem controllerAddress_disjoint {c d : Fin 8} (h : c ≠ d) :
    (controllerAddress c ≠ controllerAddress d ∧ controllerAddress c ≠ controllerAddress d + 1#16) ∧
    controllerAddress c + 1#16 ≠ controllerAddress d ∧ controllerAddress c + 1#16 ≠ controllerAddress d + 1#16 := by
  revert c d; decide

theorem State.storeControllers_cpu (l : List (Fin 8)) : (l.foldl State.storeController s).cpu = s.cpu := by
  induction l generalizing s with
  | nil => rfl
  | cons c l ih => exact (ih _).trans (s.storeController_cpu c)

theorem State.peek_storeControllers_spared (l : List (Fin 8)) {a : Word} (h : ∀ c ∈ l, s.dmac.spares a c) :
    (l.foldl State.storeController s).peek a = s.peek a := by
  induction l generalizing s with
  | nil => rfl
  | cons c l ih =>
    refine (ih _ (fun d hd => ?_)).trans (s.peek_storeController_spared (h c (List.mem_cons_self ..)))
    rw [State.storeController_dmac]
    exact h d (List.mem_cons_of_mem _ hd)

/-- Every controller of the list whose bit is set has stored its two words, and no later one has changed them. -/
theorem State.peek_storeControllers (l : List (Fin 8)) (hl : l.Nodup) (hm : 0xA8 ≤ s.config.memWords) {c : Fin 8}
    (hc : c ∈ l) (hb : s.dmac.intStatus.getLsbD c.val = true) :
    (l.foldl State.storeController s).peek (controllerAddress c) = s.dmac.status[c].first ∧
    (l.foldl State.storeController s).peek (controllerAddress c + 1#16) = s.dmac.status[c].second := by
  induction l generalizing s with
  | nil => cases hc
  | cons d l ih =>
    obtain ⟨hd, hl⟩ := List.nodup_cons.1 hl
    rw [List.foldl_cons]
    rcases List.mem_cons.1 hc with rfl | hc
    · have apart : ∀ e ∈ l, c ≠ e := fun e he hce => hd (hce ▸ he)
      rw [State.peek_storeControllers_spared _ l (fun e he _ => (controllerAddress_disjoint (apart e he)).1),
        State.peek_storeControllers_spared _ l (fun e he _ => (controllerAddress_disjoint (apart e he)).2)]
      simpa only [State.storeController, hb, if_true] using s.peek_storeStatusWords c s.dmac.status[c] hm
    · have kept := ih (s.storeController d) hl ((s.storeController_sameControl d).config ▸ hm) hc
        (by rwa [State.storeController_dmac])
      rwa [State.storeController_dmac] at kept

end Controllers

/-! ### The DMAC's answer to its interrupt (R386, R381 step 1) -/

section Answer

variable (s : State)

/-- The DMAC's own word is stored, and a free value used for it. -/
def State.dmacWordStored (s : State) : State :=
  (s.store 0x96#16 (Config.dmacStatusWord s.dmac.intStatus s.freeCount)).useFree

theorem State.recognise_dmac :
    s.recognise .dmac = (controllers.foldl State.storeController s.dmacWordStored).setDmac
      { (controllers.foldl State.storeController s.dmacWordStored).dmac with intStatus := 0#8 } := rfl

theorem State.peek_recognise_dmac (a : Word) :
    (s.recognise .dmac).peek a = (controllers.foldl State.storeController s.dmacWordStored).peek a := by
  rw [State.recognise_dmac, State.peek_setDmac]

theorem State.dmacWordStored_dmac : s.dmacWordStored.dmac = s.dmac := by simp [State.dmacWordStored]

theorem State.dmacWordStored_memWords : s.dmacWordStored.config.memWords = s.config.memWords := by
  simp [State.dmacWordStored]

theorem State.recognise_dmac_cpu : (s.recognise .dmac).cpu = s.cpu := by
  rw [State.recognise_dmac, State.setDmac_cpu, State.storeControllers_cpu]
  exact s.store_cpu _ (by decide)

/-- A word that is neither the DMAC's own nor an interrupting controller's. -/
theorem State.peek_recognise_dmac_ne {a : Word} (h : ∀ c, s.dmac.spares a c) (ha : a ≠ 0x96#16) :
    (s.recognise .dmac).peek a = s.peek a := by
  rw [State.peek_recognise_dmac, State.peek_storeControllers_spared _ _ (fun c _ => s.dmacWordStored_dmac ▸ h c)]
  exact s.peek_store_ne _ _ _ ha

theorem State.peek_recognise_dmac_own (hm : 0xA8 ≤ s.config.memWords) :
    (s.recognise .dmac).peek 0x96#16 = Config.dmacStatusWord s.dmac.intStatus s.freeCount := by
  have spared : ∀ c : Fin 8, 0x96#16 ≠ controllerAddress c ∧ 0x96#16 ≠ controllerAddress c + 1#16 := by decide
  rw [State.peek_recognise_dmac, State.peek_storeControllers_spared _ _ (fun c _ _ => spared c)]
  have installed : (0x96#16).toNat < s.config.memWords := Nat.lt_of_lt_of_le (by decide) hm
  exact (State.peek_useFree _ _).trans (s.peek_store_self _ installed)

theorem State.peek_recognise_dmac_controller (hm : 0xA8 ≤ s.config.memWords) {c : Fin 8}
    (hb : s.dmac.intStatus.getLsbD c.val = true) :
    (s.recognise .dmac).peek (controllerAddress c) = s.dmac.status[c].first ∧
    (s.recognise .dmac).peek (controllerAddress c + 1#16) = s.dmac.status[c].second := by
  have hall : ∀ c, c ∈ controllers := by decide
  have stored := s.dmacWordStored.peek_storeControllers controllers (by decide) (s.dmacWordStored_memWords ▸ hm) (hall c)
    (by rwa [s.dmacWordStored_dmac])
  rwa [s.dmacWordStored_dmac, ← State.peek_recognise_dmac, ← State.peek_recognise_dmac] at stored

/-- The second word's address, as R66 writes it. -/
theorem controllerAddress_succ (c : Fin 8) : BitVec.ofNat 16 (0x99 + 2 * c.val) = controllerAddress c + 1#16 := by
  revert c; decide

end Answer

/-! ### Frames of stores -/

section Frames

variable {s t u : State} {l : List Word} {m : Word}

theorem Frame.trans (h1 : Frame s t l m) (h2 : Frame t u l m) : Frame s u l m :=
  ⟨fun a h => (h2.words a h).trans (h1.words a h), h2.status.trans h1.status, h2.ia.trans h1.ia,
    h2.pending.trans h1.pending, h2.checks.trans h1.checks, fun k h => h1.noNewFails k (h2.noNewFails k h),
    h2.config.trans h1.config, h2.panel.trans h1.panel, h2.running.trans h1.running, h2.powered.trans h1.powered,
    h2.schedule.trans h1.schedule⟩

theorem frame_store (s : State) {a : Word} (v m : Word) (h : a ∈ l) : Frame s (s.store a v) l m := by
  constructor
  case words => exact fun b hb => s.peek_store_ne _ _ _ (fun e => hb (e ▸ h))
  case checks => exact s.store_failsOutside a v l h
  case noNewFails => exact s.store_checks a v
  all_goals simp

theorem frame_setDmac (s : State) (d : Dmac) (l : List Word) (m : Word) : Frame s (s.setDmac d) l m := by
  constructor <;> first | rfl | exact fun _ _ => rfl | exact fun _ h => h

theorem frame_storeStatusWords (s : State) (c : Fin 8) (words : ControllerStatus) (m : Word) :
    Frame s (s.storeStatusWords c words) [controllerAddress c, controllerAddress c + 1#16] m :=
  (frame_store s _ m (by simp)).trans (frame_store _ _ m (by simp))

end Frames

/-! ### The DMAC's turns -/

section DmacTurns

variable {s u : State} {rest : List Turn}

theorem step_of_dmacTake {c : Option (Fin 8)} (hu : u = s.setSchedule rest) (hp : s.powered = true)
    (h : s.schedule = .dmacTake c :: rest) : step s = .next (u.dmacTakeUp c) := by
  subst hu
  simp [step_of_schedule h, State.takeTurn, State.whilePowered, hp]

theorem step_of_dmacWrite {n : Nat} {a v : Word} (hu : u = s.setSchedule rest) (hp : s.powered = true)
    (h : s.schedule = .dmacWrite n a v :: rest) : step s = u.dmacTransfer n a v := by
  subst hu
  simp [step_of_schedule h, State.takeTurn, hp]

theorem step_of_dmacReport {r : StatusReport} (hu : u = s.setSchedule rest) (hp : s.powered = true)
    (h : s.schedule = .dmacReport r :: rest) : step s = .next (u.dmacReported r) := by
  subst hu
  simp [step_of_schedule h, State.takeTurn, State.whilePowered, hp]

/-- The task that the take-up of an activation begins: none where no installed controller answers (D33). -/
def State.taskBegun (s : State) (c : Option (Fin 8)) (q : BitVec 10 × Word) : List DmacTask :=
  match c with
  | none => []
  | some k => if k.val < s.config.dmacPorts then [{ controller := k, request := q.1, list := q.2 }] else []

theorem State.dmacTakeUp_nil (s : State) (c : Option (Fin 8)) (h : s.dmac.activations = []) : s.dmacTakeUp c = s := by
  simp only [State.dmacTakeUp, h]

theorem State.dmacTakeUp_cons (s : State) (c : Option (Fin 8)) {q : BitVec 10 × Word} {l : List (BitVec 10 × Word)}
    (h : s.dmac.activations = q :: l) :
    s.dmacTakeUp c =
      s.setDmac { s.dmac with activations := l, tasks := s.dmac.tasks ++ s.taskBegun c q } := by
  simp only [State.dmacTakeUp, h]
  cases c with
  | none => simp only [State.taskBegun, List.append_nil]
  | some k =>
    by_cases hk : k.val < s.config.dmacPorts
    · simp only [State.hasController, State.taskBegun, hk, decide_true, if_true]
      rfl
    · simp only [State.hasController, State.taskBegun, hk, decide_false, Bool.false_eq_true, if_false, List.append_nil]

/-- A transfer to the register window or to a guarded word is refused (U25). -/
theorem State.dmacStore_refused {a : Word} (v : Word) (h : s.blocked a = true ∨ (0x80 ≤ a.toNat ∧ a.toNat < 0x90)) :
    s.dmacStore a v = .refused (.dmacTarget a) := by
  unfold State.dmacStore
  split
  · rfl
  · rename_i hb
    obtain ⟨i, hi⟩ := placeOf_of_window (h.resolve_left hb)
    simp only [hi]

theorem State.dmacStore_memory {a : Word} (v : Word) (hb : s.blocked a = false)
    (hw : ¬ (0x80 ≤ a.toNat ∧ a.toNat < 0x90)) : s.dmacStore a v = .next (s.store a v) := by
  simp [State.dmacStore, hb, placeOf_of_memory hw]

end DmacTurns

/-! ### A controller's report (R386, R76) -/

section Report

variable (s : State) (r : StatusReport)

/-- The tasks in progress after a report: without the one it completes, where that is the controller's own. -/
def StatusReport.tasksAfter (r : StatusReport) (tasks : List DmacTask) : List DmacTask :=
  match r.completes with
  | none => tasks
  | some n =>
    match tasks[n]? with
    | none => tasks
    | some d => if d.controller = r.controller then tasks.eraseIdx n else tasks

theorem StatusReport.tasksAfter_none (tasks : List DmacTask) (h : r.completes = none) : r.tasksAfter tasks = tasks := by
  simp only [StatusReport.tasksAfter, h]

theorem StatusReport.tasksAfter_own {tasks : List DmacTask} {n : Nat} (h : r.completes = some n)
    (hc : (tasks[n]?).map DmacTask.controller = some r.controller) : r.tasksAfter tasks = tasks.eraseIdx n := by
  obtain ⟨d, hd, hdc⟩ := Option.map_eq_some_iff.1 hc
  simp only [StatusReport.tasksAfter, h, hd, hdc, if_true]

/-- The report's words at the controller's place, where it stores them now. -/
def State.reportStores (s : State) (r : StatusReport) : State :=
  if r.stores then s.storeStatusWords r.controller r.words else s

/-- The controller's interrupt line, where the report raises it. -/
def State.reportInterrupts (s : State) (r : StatusReport) : State :=
  if r.interrupts then s.dmacInterrupt r.controller r.words else s

theorem State.endTask_eq {n : Nat} (h : r.completes = some n) :
    s.endTask r.controller n = s.setDmac { s.dmac with tasks := r.tasksAfter s.dmac.tasks } := by
  simp only [State.endTask, StatusReport.tasksAfter, h]
  cases s.dmac.tasks[n]? with
  | none => rfl
  | some d =>
    by_cases hd : d.controller = r.controller
    · simp only [hd, if_true]
    · simp only [hd, if_false]
      rfl

/-- The report of an installed controller: its task ends, its words are stored, its interrupt is raised, in this order. -/
theorem State.dmacReported_eq (h : s.hasController r.controller = true) :
    s.dmacReported r =
      ((s.setDmac { s.dmac with tasks := r.tasksAfter s.dmac.tasks }).reportStores r).reportInterrupts r := by
  unfold State.dmacReported
  rw [if_pos h]
  cases hc : r.completes with
  | none =>
    rw [r.tasksAfter_none _ hc]
    rfl
  | some n =>
    rw [← s.endTask_eq r hc]
    rfl

theorem State.dmacReported_absent (h : s.hasController r.controller = false) : s.dmacReported r = s := by
  simp [State.dmacReported, h]

@[simp] theorem State.reportStores_dmac : (s.reportStores r).dmac = s.dmac := by
  unfold State.reportStores
  split <;> simp

@[simp] theorem State.reportStores_cru : (s.reportStores r).cru = s.cru := by
  unfold State.reportStores
  split <;> simp

theorem State.reportStores_cpu : (s.reportStores r).cpu = s.cpu := by
  unfold State.reportStores
  split
  · exact s.storeStatusWords_cpu _ _
  · rfl

/-- What a raised line changes: the interrupt status, and the words to be stored at the interrupt. -/
theorem State.reportInterrupts_eq :
    s.reportInterrupts r = s.setDmac
      { s.dmac with
        intStatus := s.dmac.intStatus ||| (if r.interrupts then 1#8 <<< r.controller.val else 0#8)
        status :=
          if r.interrupts then s.dmac.status.set r.controller.val r.words r.controller.isLt else s.dmac.status } := by
  unfold State.reportInterrupts
  split
  · rfl
  · simp only [BitVec.or_zero]
    rfl

/-- The state after an installed controller's report. -/
theorem State.dmacReported_installed (h : s.hasController r.controller = true) :
    s.dmacReported r = ((s.setDmac { s.dmac with tasks := r.tasksAfter s.dmac.tasks }).reportStores r).setDmac
      { intStatus := s.dmac.intStatus ||| (if r.interrupts then 1#8 <<< r.controller.val else 0#8)
        status := if r.interrupts then s.dmac.status.set r.controller.val r.words r.controller.isLt else s.dmac.status
        activations := s.dmac.activations
        tasks := r.tasksAfter s.dmac.tasks } := by
  rw [s.dmacReported_eq r h, State.reportInterrupts_eq, State.reportStores_dmac]
  rfl

theorem frame_reportStores (m : Word) :
    Frame s (s.reportStores r)
      (if r.stores then [controllerAddress r.controller, controllerAddress r.controller + 1#16] else []) m := by
  unfold State.reportStores
  split
  · exact frame_storeStatusWords s _ _ m
  · exact Frame.refl s m

theorem frame_dmacReported (h : s.hasController r.controller = true) (m : Word) :
    Frame s (s.dmacReported r)
      (if r.stores then [controllerAddress r.controller, controllerAddress r.controller + 1#16] else []) m := by
  rw [s.dmacReported_installed r h]
  exact ((frame_setDmac s _ _ m).trans (frame_reportStores _ r m)).trans (frame_setDmac _ _ _ m)

theorem State.peek_dmacReported (h : s.hasController r.controller = true) (hs : r.stores = true)
    (hm : 0xA8 ≤ s.config.memWords) :
    (s.dmacReported r).peek (controllerAddress r.controller) = r.words.first ∧
    (s.dmacReported r).peek (controllerAddress r.controller + 1#16) = r.words.second := by
  rw [s.dmacReported_installed r h, State.peek_setDmac, State.peek_setDmac]
  simp only [State.reportStores, hs, if_true]
  exact State.peek_storeStatusWords _ r.controller r.words hm

/-- A controller's bit of the interrupt status register. -/
theorem controllerBit (c : Fin 8) : 1#8 <<< c.val = BitVec.ofNat 8 (2 ^ c.val) := by
  revert c; decide

theorem status_set (v : Vector ControllerStatus 8) (c k : Fin 8) (words : ControllerStatus) :
    (v.set c.val words c.isLt)[k] = if k = c then words else v[k] := by
  simp only [Fin.getElem_fin, Vector.getElem_set, Fin.ext_iff, eq_comm]

end Report

/-- Settles O54: the answer to the interrupt store by store; then each turn of the DMAC by what its meaning answers. -/
theorem dmacStoresStatus : Obligations.DmacStoresStatus := by
  refine ⟨fun s hm => ⟨rfl, s.peek_recognise_dmac_own hm, fun c hb => ?own, fun a hc ha => ?others, ?cpu, ?regs⟩, ?turns⟩
  case own =>
    rw [controllerAddress_succ]
    exact s.peek_recognise_dmac_controller hm hb
  case others =>
    refine s.peek_recognise_dmac_ne (fun c hb => ?_) ha
    rw [← controllerAddress_succ]
    exact hc c hb
  case cpu => rw [s.recognise_dmac_cpu]
  case regs =>
    intro i
    rw [State.reg, s.recognise_dmac_cpu, State.reg]
  case turns =>
    intro s u rest hu hp
    have hd : u.dmac = s.dmac := by rw [hu, State.setSchedule_dmac]
    have hc : u.cpu = s.cpu := by rw [hu, State.setSchedule_cpu]
    have hcru : u.cru = s.cru := by rw [hu, State.setSchedule_cru]
    have hconf : u.config = s.config := by rw [hu, State.setSchedule_config]
    refine ⟨fun c h => ?take, fun n a v h => ?write, ?report⟩
    case take =>
      rw [step_of_dmacTake hu hp h]
      refine ⟨fun hq => ?_, fun q l hq => ?_⟩
      · rw [u.dmacTakeUp_nil c (hd ▸ hq)]
      · rw [u.dmacTakeUp_cons c (hd ▸ hq), hd]
        cases c with
        | none => rfl
        | some k => simp only [State.taskBegun, hconf]
    case write =>
      rw [step_of_dmacWrite hu hp h]
      refine ⟨fun hn => ?_, fun hn => ?_⟩
      · simp [State.dmacTransfer, hd, Nat.not_lt.2 hn]
      · have transfers : u.dmacTransfer n a v = u.dmacStore a v := by simp [State.dmacTransfer, hd, hn]
        rw [transfers]
        have hb : u.blocked a = s.blocked a := by rw [hu]; rfl
        refine ⟨fun ha => State.dmacStore_refused v (hb ▸ ha), fun hs hw => ?_⟩
        have hus : u.storable a = true := by rw [hu]; exact hs
        have free : u.blocked a = false := by
          simp only [State.storable, Bool.and_eq_true, Bool.not_eq_true'] at hus
          exact hus.1
        refine ⟨_, State.dmacStore_memory v free hw, ?_, (u.store_cpu v hw).trans hc, ?_, frame_store u v _ (by simp)⟩
        · simp [State.peek_store, u.present_of_storable hus]
        · exact ⟨(u.store_cru a v).trans hcru, (u.store_dmac a v).trans hd⟩
    case report =>
      rintro r a h rfl
      rw [step_of_dmacReport hu hp h]
      refine ⟨fun habs => ?_, fun hin => ?_⟩
      · rw [u.dmacReported_absent r (by simp [State.hasController, hconf, habs])]
      · have installed : u.hasController r.controller = true := by simp [State.hasController, hconf, hin]
        have heq := u.dmacReported_installed r installed
        refine ⟨_, rfl, fun n hn ht => ?_, fun hn => ?_, ?_, fun k => ?_, ?_, ?_, ?_,
          fun hs hm => u.peek_dmacReported r installed hs (hconf ▸ hm), frame_dmacReported u r installed 0#16⟩
        · rw [heq, State.setDmac_dmac, hd]
          exact r.tasksAfter_own hn ht
        · rw [heq, State.setDmac_dmac, hd]
          exact r.tasksAfter_none _ hn
        · rw [heq, State.setDmac_dmac, hd, controllerBit]
        · rw [heq, State.setDmac_dmac, hd]
          cases r.interrupts with
          | false => simp
          | true => simpa using status_set s.dmac.status r.controller k r.words
        · rw [heq, State.setDmac_dmac, hd]
        · rw [heq, State.setDmac_cru, State.reportStores_cru, State.setDmac_cru, hcru]
        · rw [heq, State.setDmac_cpu, State.reportStores_cpu, State.setDmac_cpu, hc]

/-! ### What keeps the invariant -/

section Invariant

variable {s t : State}

theorem State.Inv.of_keeps (hs : s.Inv) (h : Keeps s t) : t.Inv where
  memory := h.memory hs.memory
  checks := h.checks hs.checks
  lines := h.lines hs.lines
  run := by
    intro hr
    rw [h.control.powered, h.control.panel]
    exact hs.run (h.control.running.symm.trans hr)

/-- Beside memory, the bad words, the lines and the run state, the invariant reads the installation only. -/
theorem State.Inv.congr (hs : s.Inv) (hc : t.config = s.config) (hm : t.mem = s.mem)
    (hf : t.checkFails = s.checkFails) (hl : t.cru = s.cru) (hr : t.runLegal) : t.Inv where
  memory := memoryLegal_congr hm hc hs.memory
  checks := checksLegal_congr hf hc hs.checks
  lines := linesLegal_congr hl hs.lines
  run := hr

theorem State.Inv.setSchedule (hs : s.Inv) (l : List Turn) : (s.setSchedule l).Inv := hs.congr rfl rfl rfl rfl hs.run

/-- Any change at the panel but of the MODE switch. -/
theorem State.Inv.setPanel (hs : s.Inv) {p : Panel} (hp : p.modeRun = s.panel.modeRun) : (s.setPanel p).Inv :=
  hs.congr rfl rfl rfl rfl (fun hr => ⟨(hs.run hr).1, hp.trans (hs.run hr).2⟩)

theorem State.Inv.setDmac (hs : s.Inv) (d : Dmac) : (s.setDmac d).Inv := hs.of_keeps (s.setDmac_keeps d)

/-- A store to any address, protected or not. -/
theorem State.Inv.store (hs : s.Inv) (a v : Word) : (s.store a v).Inv where
  memory := memoryLegal_store s a v hs.memory
  checks := checksLegal_store s a v hs.checks
  lines := linesLegal_congr (by simp) hs.lines
  run := by simpa [State.runLegal] using hs.run

/-! ### The operator -/

/-- A suppressed panel write changes `ST` and the request latch only, and any other is a store that nothing blocks. -/
theorem State.panelWrite_keeps (s : State) (a v : Word) : Keeps s (s.panelWrite a v) := by
  unfold State.panelWrite
  split
  · split
    · exact (local_useFree s 0#16).keeps.trans (State.raiseInternal_keeps _ _)
    · exact .of_fields ⟨rfl, rfl, rfl, rfl, rfl⟩ rfl rfl rfl rfl
  · rename_i hb
    exact (local_store s 0#16 a v (by simpa using hb)).keeps

theorem State.loadRom_keeps (s : State) (base : Word) (k : Nat) : Keeps s (s.loadRom base k) := by
  induction k with
  | zero => exact Keeps.refl s
  | succ k ih => exact ih.trans (State.panelWrite_keeps _ _ _)

theorem State.freeRegs_keeps (s : State) (k : Nat) : Keeps s (s.freeRegs k) := by
  induction k with
  | zero => exact Keeps.refl s
  | succ k ih =>
    simp only [State.freeRegs]
    split
    · exact ih.trans ((local_useFree _ 0#16).trans (local_setReg _ _ _ _)).keeps
    · exact ih

theorem State.Inv.panelLoad (hs : s.Inv) : s.panelLoad.Inv := by
  unfold State.panelLoad
  split
  · exact ((hs.of_keeps (s.loadRom_keeps _ _)).of_keeps (local_useFree _ 0#16).keeps).setPanel rfl
  · exact hs

theorem State.Inv.panelReset (hs : s.Inv) : s.panelReset.Inv := by
  have cleared : (((s.setPc 0#16).setSt 0#16).setPending false).Inv := hs.congr rfl rfl rfl rfl hs.run
  have dark := cleared.setPanel (p := { s.panel with ma := 0#16, display := 0#16, powerLoss := false }) rfl
  exact (dark.of_keeps ((local_useFree _ 0#16).trans (local_setEc _ _ _)).keeps).of_keeps (State.freeRegs_keeps _ 16)

theorem State.Inv.setPanelRegister (hs : s.Inv) (r : PanelRegister) (v : Word) : (s.setPanelRegister r v).Inv := by
  cases r with
  | pc | ec | st => exact hs.congr rfl rfl rfl rfl hs.run
  | ma => exact hs.setPanel rfl

theorem State.Inv.enterMemory (hs : s.Inv) : s.enterMemory.Inv :=
  (hs.of_keeps (s.panelWrite_keeps _ _)).setPanel rfl

theorem State.Inv.displayMemory (hs : s.Inv) : s.displayMemory.Inv :=
  (hs.of_keeps (local_read s 0#16 _).keeps).setPanel rfl

theorem State.Inv.setModeSwitch (hs : s.Inv) (on : Bool) : (s.setModeSwitch on).Inv := by
  cases on with
  | true => exact hs.congr rfl rfl rfl rfl (fun hr => ⟨(hs.run hr).1, rfl⟩)
  | false => exact hs.congr rfl rfl rfl rfl (fun hr => nomatch hr)

/-! ### The memory system and the power -/

theorem State.Inv.spoilWord (hs : s.Inv) (a : Word) : (s.spoilWord a).Inv := by
  unfold State.spoilWord
  split
  · exact hs
  · rename_i k hk
    split
    · rename_i hi
      refine ⟨memoryLegal_congr rfl rfl hs.memory, ⟨pairwise_insertAddress _ _ hs.checks.1, fun b hb => ?_⟩,
        linesLegal_congr rfl hs.lines, hs.run⟩
      rcases (mem_insertAddress _ _ _).1 hb with rfl | hb
      · exact ⟨hi, inWindow_of_placeOf hk⟩
      · exact hs.checks.2 b hb
    · exact hs

theorem State.Inv.fillMemory (hs : s.Inv) (l : List (Word × Word)) : (s.fillMemory l).Inv := by
  induction l with
  | nil => exact hs
  | cons c l ih =>
    simp only [State.fillMemory]
    split
    · exact ih
    · exact ih.store _ _

theorem State.Inv.spoilWords (hs : s.Inv) (l : List Word) : (s.spoilWords l).Inv := by
  induction l with
  | nil => exact hs
  | cons a l ih => exact ih.spoilWord a

theorem State.Inv.restoreMemory (hs : s.Inv) (p : PowerUp) : (s.restoreMemory p).Inv := by
  unfold State.restoreMemory
  split
  · exact hs
  · have blank : ((s.setMem []).setCheckFails []).Inv :=
      ⟨⟨rfl, fun _ h => nomatch h⟩, ⟨List.Pairwise.nil, fun _ h => nomatch h⟩, linesLegal_congr rfl hs.lines, hs.run⟩
    exact (blank.fillMemory _).spoilWords _

theorem State.Inv.restorePower (hs : s.Inv) (p : PowerUp) : (s.restorePower p).Inv := by
  have hm := hs.restoreMemory p
  exact ⟨memoryLegal_congr rfl rfl hm.memory, checksLegal_congr rfl rfl hm.checks,
    ⟨hm.lines.1, linesAt_legal _⟩, fun hr => ⟨rfl, hr⟩⟩

/-! ### The devices -/

theorem State.Inv.driveInput (hs : s.Inv) (line : CruLine) (level : Bool) : (s.driveInput line level).Inv := by
  unfold State.driveInput
  split
  · exact ⟨memoryLegal_congr rfl rfl hs.memory, checksLegal_congr rfl rfl hs.checks,
      ⟨setLine_legal _ _ _ hs.lines.1, hs.lines.2⟩, hs.run⟩
  · exact hs

theorem State.Inv.driveInterrupt (hs : s.Inv) (level : Bool) : (s.driveInterrupt level).Inv := by
  unfold State.driveInterrupt
  split
  · exact hs
  · exact ⟨memoryLegal_congr rfl rfl hs.memory, checksLegal_congr rfl rfl hs.checks, hs.lines, hs.run⟩

theorem State.reportStores_keeps (s : State) (r : StatusReport) : Keeps s (s.reportStores r) := by
  unfold State.reportStores
  split
  · exact s.storeStatusWords_keeps _ _
  · exact Keeps.refl s

theorem State.dmacReported_keeps (s : State) (r : StatusReport) : Keeps s (s.dmacReported r) := by
  cases h : s.hasController r.controller with
  | false =>
    rw [s.dmacReported_absent r h]
    exact Keeps.refl s
  | true =>
    rw [s.dmacReported_installed r h]
    exact ((s.setDmac_keeps _).trans (State.reportStores_keeps _ r)).trans (State.setDmac_keeps _ _)

theorem State.dmacTakeUp_keeps (s : State) (c : Option (Fin 8)) : Keeps s (s.dmacTakeUp c) := by
  cases h : s.dmac.activations with
  | nil =>
    rw [s.dmacTakeUp_nil c h]
    exact Keeps.refl s
  | cons q l =>
    rw [s.dmacTakeUp_cons c h]
    exact s.setDmac_keeps _

theorem State.Inv.latchError (hs : s.Inv) (k : Nat) : (s.latchError k).Inv := by
  unfold State.latchError
  split
  · exact hs
  · exact hs.setPanel rfl

end Invariant

/-! ### What a turn answers -/

/-- Whatever next state the turn answers has the invariant. -/
def KeepsInv (r : Result) : Prop := ∀ t, r = .next t → t.Inv

section Answers

variable {s t : State}

theorem KeepsInv.next (h : t.Inv) : KeepsInv (.next t) := fun _ e => by cases e; exact h

theorem KeepsInv.refused (r : Refusal) : KeepsInv (.refused r) := fun _ e => nomatch e

theorem KeepsInv.inHalt (hs : s.Inv) (ht : t.Inv) : KeepsInv (s.inHalt t) := by
  unfold State.inHalt
  split
  · exact .next hs
  · exact .next ht

theorem KeepsInv.whilePowered (hs : s.Inv) (ht : t.Inv) : KeepsInv (s.whilePowered t) := by
  unfold State.whilePowered
  split
  · exact .next ht
  · exact .next hs

theorem KeepsInv.cpuTurn (hs : s.Inv) : KeepsInv s.cpuTurn := fun _ h => hs.of_keeps (State.cpuTurn_keeps h)

theorem KeepsInv.dmacTransfer (hs : s.Inv) (n : Nat) (a v : Word) : KeepsInv (s.dmacTransfer n a v) := by
  simp only [State.dmacTransfer, State.dmacStore]
  split
  · split
    · exact .refused _
    · split
      · exact .refused _
      · exact .next (hs.store a v)
  · exact .next hs

theorem KeepsInv.setClockSwitch (hs : s.Inv) (p : ClockPosition) : KeepsInv (s.setClockSwitch p) := by
  cases p with
  | on | off => exact .next (hs.setPanel rfl)
  | step =>
    simp only [State.setClockSwitch]
    split
    · exact .refused _
    · split
      · exact .next (hs.setPanel rfl)
      · exact .next (hs.setPanel rfl)

/-- START needs the power on: in RUN the machine has it (R49). -/
theorem KeepsInv.panelStart (hs : s.Inv) (hp : s.powered = true) : KeepsInv (s.panelStart exec) := by
  unfold State.panelStart
  split
  · exact .next hs
  · split
    · rename_i hm
      exact .next (hs.congr rfl rfl rfl rfl (fun _ => ⟨hp, hm⟩))
    · split
      · exact fun _ h => hs.of_keeps (State.clockedStep_keeps h)
      · exact .next hs

/-- An action of the unlocked panel; every one that LOCK disables needs the power on (log 14). -/
theorem KeepsInv.panelUnlocked (hs : s.Inv) (act : PanelAction) (hp : act.lockable = true → s.powered = true) :
    KeepsInv (s.panelUnlocked exec act) := by
  cases act with
  | setData | setLocked | setMpo | setSie => exact .next (hs.setPanel rfl)
  | setMode on => exact .next (hs.setModeSwitch on)
  | setClock p => exact .setClockSwitch hs p
  | start => exact .panelStart hs (hp rfl)
  | reset => exact .inHalt hs hs.panelReset
  | load => exact .inHalt hs hs.panelLoad
  | enter r => exact .inHalt hs ((hs.setPanelRegister r _).setPanel rfl)
  | display | displayIa | displayIb => exact .inHalt hs (hs.setPanel rfl)
  | enterMd => exact .inHalt hs hs.enterMemory
  | displayMd => exact .inHalt hs hs.displayMemory
  | enterMdi => exact .inHalt hs (hs.enterMemory.setPanel rfl)
  | displayMdi => exact .inHalt hs (hs.displayMemory.setPanel rfl)

theorem KeepsInv.panelAct (hs : s.Inv) (act : PanelAction) : KeepsInv (s.panelAct exec act) := by
  unfold State.panelAct
  split
  · exact .next hs
  · rename_i hl
    refine .panelUnlocked hs act (fun ha => ?_)
    simp only [ha, Bool.true_and, Bool.or_eq_true, Bool.not_eq_true', not_or, Bool.not_eq_false] at hl
    exact hl.2

/-- One turn, of whichever agent. -/
theorem KeepsInv.takeTurn (hs : s.Inv) (turn : Turn) : KeepsInv (s.takeTurn turn) := by
  cases turn with
  | cpu => exact .cpuTurn hs
  | panel act => exact .panelAct hs act
  | cruInput line level => exact .next (hs.driveInput line level)
  | cruInterrupt level => exact .next (hs.driveInterrupt level)
  | dmacWrite n a v =>
    simp only [State.takeTurn]
    split
    · exact .dmacTransfer hs n a v
    · exact .next hs
  | dmacReport r => exact .whilePowered hs (hs.of_keeps (s.dmacReported_keeps r))
  | dmacTake c => exact .whilePowered hs (hs.of_keeps (s.dmacTakeUp_keeps c))
  | powerLossSensed => exact .whilePowered hs (hs.of_keeps (s.raiseInternal_keeps .pf))
  | powerOff => exact .next (hs.congr rfl rfl rfl rfl (fun hr => nomatch hr))
  | powerRestored p =>
    simp only [State.takeTurn]
    split
    · exact .next hs
    · exact .next (hs.restorePower p)
  | memoryError a => exact .whilePowered hs (hs.spoilWord a)
  | errorLatch k => exact .whilePowered hs (hs.latchError k)

end Answers

/-- Settles O11: a step is the turn at the head of the schedule, or else the processor's. -/
theorem stepKeepsInvariant : Obligations.StepKeepsInvariant := by
  intro s t hs h
  cases hq : s.schedule with
  | nil => exact KeepsInv.cpuTurn hs t ((step_of_no_schedule hq).symm.trans h)
  | cons turn rest => exact KeepsInv.takeTurn (hs.setSchedule rest) turn t ((step_of_schedule hq).symm.trans h)

end Sys2Proof.Machine
end

section
/-! PROOFS. The family of 30_encoding.md: decoding an encoded instruction (R102 to R119), the undefined operation codes
(R120), the unused bits (R121), the arithmetic board's instructions (R122), and words of the manual's listings. -/

namespace Sys2Proof.Machine

/-! ### The decoder's answer, by operation code (R119)

The arms that the proofs below cite by name. -/

section Arms

variable {L : Layout} {p : DWord}

theorem decode_ldcr (ho : opField p = 0x02#6) :
    decode L p = .ok (.ldcr (amBit p) (mField p) (countOf (bField p)) (n10Field p)) := by delta decode; rw [ho]; rfl

theorem decode_arb (ho : opField p = 0x03#6) :
    decode L p = .ok (.arb (kBit p) (xrField p).toFin (r4Field p) (nField p)) := by delta decode; rw [ho]; rfl

theorem decode_adac (ho : opField p = 0x09#6) : decode L p = .ok (.adac (mField p) (nField p)) := by
  delta decode; rw [ho]; rfl

theorem decode_brrl (ho : opField p = 0x0A#6) :
    decode L p = .ok (.brrl (linkField L p).toFin (secondOperand p)) := by delta decode; rw [ho]; rfl

theorem decode_stcr (ho : opField p = 0x0B#6) :
    decode L p = .ok (.stcr (amBit p) (mField p) (countOf (bField p)) (n10Field p)) := by delta decode; rw [ho]; rfl

theorem decode_bbne (ho : opField p = 0x0C#6) :
    decode L p = .ok (.bbne (amBit p) (mField p) (v1Bit p) (n10Field p)) := by delta decode; rw [ho]; rfl

theorem decode_setb (ho : opField p = 0x0D#6) : decode L p = .ok (.setb (amBit p) (mField p) (v1Bit p)) := by
  delta decode; rw [ho]; rfl

theorem decode_xbne (ho : opField p = 0x0E#6) : decode L p = .ok (.xbne (amBit p) (mField p) (v1Bit p)) := by
  delta decode; rw [ho]; rfl

theorem decode_tsbx (ho : opField p = 0x0F#6) :
    decode L p = .ok (.tsbx (amBit p) (mField p) (v1Bit p) (n10Field p) (outputBit L p)) := by delta decode; rw [ho]; rfl

theorem decode_transfer (ho : opField p = 0x1C#6) : decode L p = decodeTransfer p := by delta decode; rw [ho]; rfl

theorem decode_statusBlock (ho : opField p = 0x1E#6) : decode L p = decodeStatusBlock p := by delta decode; rw [ho]; rfl

theorem decode_loadStatus (ho : opField p = 0x1F#6) : decode L p = decodeLoadStatus p := by delta decode; rw [ho]; rfl

theorem decode_xfne (ho : opField p = 0x20#6) : decode L p = .ok (.xfne (amBit p) (flagOf p) (v1Bit p)) := by
  delta decode; rw [ho]; rfl

theorem decode_bfne (ho : opField p = 0x21#6) :
    decode L p = .ok (.bfne (amBit p) (flagOf p) (v1Bit p) (n10Field p)) := by delta decode; rw [ho]; rfl

theorem decode_setf (ho : opField p = 0x22#6) : decode L p = .ok (.setf (amBit p) (flagOf p) (v1Bit p)) := by
  delta decode; rw [ho]; rfl

theorem decode_stps (ho : opField p = 0x39#6) :
    decode L p = if kBit p then .ok (.stps (addressOf p)) else .error (.variant 0x39#6 (kBit p)) := by
  delta decode; rw [ho]; rfl

end Arms

/-! ### A format's fields, read back by the arm of its operation code (R102 to R113)

Each lemma takes the arm of `decode` as a hypothesis on every pair with that operation code. -/

section Formats

variable {L : Layout} {op : BitVec 6} {k : Bool}

theorem decode_encodeIA {f : RegRef → Address → Instr}
    (arm : ∀ p, opField p = op → kBit p = k → decode L p = .ok (f (regRefOf p) (addressOf p))) (reg : RegRef)
    (adr : Address) : decode L (encodeIA op k reg adr) = .ok (f reg adr) := by
  simpa using arm (encodeIA op k reg adr) (by simp) (by simp)

theorem decode_encodeGroup1 {f : BitVec 4 → Address → Instr}
    (arm : ∀ p, opField p = op → kBit p = k → decode L p = .ok (f (r4Field p) (addressOf p))) (low : BitVec 4)
    (adr : Address) : decode L (encodeGroup1 op k adr low) = .ok (f low adr) := by
  simpa using arm (encodeGroup1 op k adr low) (by simp) (by simp)

/-- A shift count is coded in bits 12 to 15, 16 as 0 (R104). -/
theorem decode_encodeCount {f : Nat → Address → Instr}
    (arm : ∀ p, opField p = op → kBit p = k → decode L p = .ok (f (countOf (r4Field p)) (addressOf p))) {count : Nat}
    (hc : countOk count = true) (adr : Address) : decode L (encodeGroup1 op k adr (count4 count)) = .ok (f count adr) := by
  rw [decode_encodeGroup1 (f := fun low adr => f (countOf low) adr) arm, countOf_count4 count hc]

theorem decode_encodeIC {e : BitVec 3} {f : Bool → Address → Instr}
    (arm : ∀ p, opField p = op → kBit p = k → rField p = e → decode L p = .ok (f (altBit p) (addressOf p))) (rq : Bool)
    (adr : Address) : decode L (encodeIC op k e rq adr) = .ok (f rq adr) := by
  simpa using arm (encodeIC op k e rq adr) (by simp) (by simp) (by simp)

theorem decode_encodeII {f : BaseRef → BaseRef → Instr}
    (arm : ∀ p, opField p = op → decode L p = .ok (f (firstOperand p) (secondOperand p))) (op1 op2 : BaseRef) :
    decode L (encodeII op op1.disp (reg3 op1.base) (reg3 op2.base) op2.disp) = .ok (f op1 op2) := by
  simpa [firstOperand, secondOperand] using
    arm (encodeII op op1.disp (reg3 op1.base) (reg3 op2.base) op2.disp) (by simp)

theorem decode_encodeIIC {f : BaseRef → BitVec 13 → Instr}
    (arm : ∀ p, opField p = op → decode L p = .ok (f (firstOperand p) (valueField p))) (op1 : BaseRef)
    (value : BitVec 13) : decode L (encodeIIC op op1 value) = .ok (f op1 value) := by
  simpa [firstOperand] using arm (encodeIIC op op1 value) (by simp)

end Formats

/-- Settles O1, format by format: the arm of the operation code reads each field where the format puts it. -/
theorem decodeEncodeAgree : Obligations.DecodeEncodeAgree := by
  intro L i h
  cases i with
  | a | aa | bl | starBL | cr | cra | crl | crla | d | da | dad | dlax | drax | drlx | drrx | ds | l | la | lot
  | lota | m | ma | mlax | mrax | mrrx | n | na | or | ora | s | sa | sat | st | xor | xora =>
    exact decode_encodeIA (fun p ho hk => by delta decode; rw [ho, hk]; rfl) _ _
  | bc =>
    exact decode_encodeGroup1 (f := fun low adr => .bc low.toFin adr)
      (fun p ho hk => by delta decode; rw [ho, hk]; rfl) _ _
  | starBC =>
    exact decode_encodeGroup1 (f := fun low adr => .starBC low.toFin adr)
      (fun p ho hk => by delta decode; rw [ho, hk]; rfl) _ _
  | dla | dra | drl | drr | mla | mra | mrr =>
    exact decode_encodeCount (fun p ho hk => by delta decode; rw [ho, hk]; rfl) h _
  | b | starB | xsb | starXSB | xwb | starXWB =>
    exact decode_encodeIC (fun p ho hk he => (decode_transfer ho).trans (by rw [decodeTransfer, hk, he]; rfl)) _ _
  | nop | xs | xw =>
    exact decode_encodeIC (f := fun _ _ => _)
      (fun p ho hk he => (decode_transfer ho).trans (by rw [decodeTransfer, hk, he]; rfl)) _ _
  | ss | ssb | sxbs | sxbw | sxs | sxw =>
    exact decode_encodeIC (fun p ho hk he => (decode_statusBlock ho).trans (by rw [decodeStatusBlock, hk, he]; rfl)) _ _
  | lds =>
    exact decode_encodeIC (fun p ho hk he => (decode_loadStatus ho).trans (by rw [decodeLoadStatus, hk, he]; rfl)) _ _
  | arb => rw [encode, decode_arb (opField_encodeID _ _ _ _)]; simp
  | adac => rw [encode, decode_adac (opField_encodeIE _ _)]; simp
  | stps =>
    exact decode_encodeGroup1 (f := fun _ adr => .stps adr) (fun p ho hk => by rw [decode_stps ho, hk]; rfl) _ _
  | cm | cml | mov => exact decode_encodeII (fun p ho => by delta decode; rw [ho]; rfl) _ _
  | brrl =>
    rw [encode, decode_brrl (opField_encodeBrrl _ _ _), linkField_encodeBrrl, secondOperand_encodeBrrl]
  | ami | cmi => exact decode_encodeIIC (fun p ho => by delta decode; rw [ho]; rfl) _ _
  | setf => rw [encode, decode_setf (opField_encodeIII _ _ _ _ _ _)]; simp [flagOf]
  | xfne => rw [encode, decode_xfne (opField_encodeIII _ _ _ _ _ _)]; simp [flagOf]
  | bfne => rw [encode, decode_bfne (opField_encodeIII _ _ _ _ _ _)]; simp [flagOf]
  | setb => rw [encode, decode_setb (opField_encodeIII _ _ _ _ _ _)]; simp
  | xbne => rw [encode, decode_xbne (opField_encodeIII _ _ _ _ _ _)]; simp
  | bbne => rw [encode, decode_bbne (opField_encodeIII _ _ _ _ _ _)]; simp
  | tsbx => rw [encode, decode_tsbx (opField_encodeIII _ _ _ _ _ _), outputBit_encodeIII]; simp
  | ldcr => rw [encode, decode_ldcr (opField_encodeIII _ _ _ _ _ _)]; simp [countOf_count4 _ h]
  | stcr => rw [encode, decode_stcr (opField_encodeIII _ _ _ _ _ _)]; simp [countOf_count4 _ h]

/-! ### The undefined operation codes (R120) -/

section Undefined

variable (p : DWord)

theorem toNat_opField : (opField p).toNat = p.toNat / 2 ^ 26 := by
  simp only [opField, BitVec.extractLsb'_toNat, Nat.shiftRight_eq_div_pow]
  omega

theorem toNat_rField : (rField p).toNat = p.toNat / 2 ^ 16 % 8 := by
  simp [rField, BitVec.extractLsb'_toNat, Nat.shiftRight_eq_div_pow]

theorem toNat_kBit : (kBit p).toNat = p.toNat / 2 ^ 23 % 2 := by
  rw [kBit, BitVec.getLsbD, Nat.toNat_testBit]

theorem decodeTransfer_error_iff :
    (∃ r, decodeTransfer p = .error r) ↔
      ((kBit p).toNat, (rField p).toNat) ∈ [(0, 3), (0, 6), (1, 3), (1, 4), (1, 5), (1, 6), (1, 7)] := by
  have he : (rField p).toNat < 8 := (rField p).isLt
  unfold decodeTransfer
  generalize (rField p).toNat = e at he
  cases kBit p <;> interval_cases e <;> simp

theorem decodeStatusBlock_error_iff :
    (∃ r, decodeStatusBlock p = .error r) ↔
      (kBit p).toNat = 0 ∨ (rField p).toNat = 3 ∨ (rField p).toNat = 7 := by
  have he : (rField p).toNat < 8 := (rField p).isLt
  unfold decodeStatusBlock
  generalize (rField p).toNat = e at he
  cases kBit p <;> interval_cases e <;> simp

theorem decodeLoadStatus_error_iff :
    (∃ r, decodeLoadStatus p = .error r) ↔ (kBit p).toNat = 1 ∨ (rField p).toNat ≠ 0 := by
  unfold decodeLoadStatus
  cases kBit p <;> rcases (rField p).toNat with _ | e <;> simp

end Undefined

/-- Settles O2, arm by arm of the decoder. -/
theorem undefinedCodesAreTheListed : Obligations.UndefinedCodesAreTheListed := by
  intro L p
  simp only [undefinedPair, ← toNat_opField, ← toNat_kBit, ← toNat_rField]
  unfold decode
  split
  all_goals rename_i hop
  -- the three operation codes of format I-C
  case h_27 => simp [decodeTransfer_error_iff, hop]
  case h_29 => simp [decodeStatusBlock_error_iff, hop, or_assoc]
  case h_30 => simp [decodeLoadStatus_error_iff, hop]
  -- the operation codes that select nothing
  case h_46 =>
    have hlt : (opField p).toNat < 64 := (opField p).isLt
    simp only [imp_false] at *
    have hnone : (opField p).toNat ≤ 1 ∨ (0x23 ≤ (opField p).toNat ∧ (opField p).toNat ≤ 0x2F) ∨
        0x3C ≤ (opField p).toNat := by omega
    rcases hnone with h | ⟨h, h'⟩ | h
    · simp [h]
    · simp [h, h']
    · simp [h]
  -- the others are decided by bit 8
  all_goals cases hk : kBit p
  all_goals simp [hop]

/-! ### What decodes (R104, R115) -/

section Decoded

variable {p : DWord} {i : Instr} (L : Layout)

theorem decodeTransfer_ok (h : decodeTransfer p = .ok i) :
    i.wellFormed = true ∧ opField (encode L i) = 0x1C#6 := by
  unfold decodeTransfer at h
  split at h
  all_goals cases h
  all_goals exact ⟨rfl, opField_encodeIC _ _ _ _ _⟩

theorem decodeStatusBlock_ok (h : decodeStatusBlock p = .ok i) :
    i.wellFormed = true ∧ opField (encode L i) = 0x1E#6 := by
  unfold decodeStatusBlock at h
  split at h
  all_goals cases h
  all_goals exact ⟨rfl, opField_encodeIC _ _ _ _ _⟩

theorem decodeLoadStatus_ok (h : decodeLoadStatus p = .ok i) :
    i.wellFormed = true ∧ opField (encode L i) = 0x1F#6 := by
  unfold decodeLoadStatus at h
  split at h
  all_goals cases h
  all_goals exact ⟨rfl, opField_encodeIC _ _ _ _ _⟩

variable {L}

/-- Whatever decodes is well-formed, and bits 0 to 5 of the pair are those of its encoding. -/
theorem decode_ok (h : decode L p = .ok i) : i.wellFormed = true ∧ opField (encode L i) = opField p := by
  rw [← BitVec.toNat_inj]
  unfold decode at h
  split at h
  all_goals rename_i hop
  -- the three operation codes of format I-C
  case h_27 => obtain ⟨hw, ho⟩ := decodeTransfer_ok L h; exact ⟨hw, by rw [ho, hop]; rfl⟩
  case h_29 => obtain ⟨hw, ho⟩ := decodeStatusBlock_ok L h; exact ⟨hw, by rw [ho, hop]; rfl⟩
  case h_30 => obtain ⟨hw, ho⟩ := decodeLoadStatus_ok L h; exact ⟨hw, by rw [ho, hop]; rfl⟩
  all_goals try split at h
  all_goals cases h
  all_goals simp [encode, Instr.wellFormed, countOk_countOf, hop]

end Decoded

/-! ### The unused bits (R121)

What two pairs that agree outside the bits `u` read alike: every field with no bit in `u`. -/

section Agreeing

variable {u p q : DWord} (h : p &&& ~~~u = q &&& ~~~u)

include h

theorem pairBit_congr {j : Nat} (hu : u.getLsbD j = false) : q.getLsbD j = p.getLsbD j := by
  have hj := congrArg (BitVec.getLsbD · j) h
  simp only [BitVec.getLsbD_and, BitVec.getLsbD_not, hu, Bool.not_false, Bool.and_true] at hj
  by_cases hlt : j < 32
  · simpa only [hlt, decide_true, Bool.and_true] using hj.symm
  · rw [BitVec.getLsbD_of_ge _ _ (not_lt.mp hlt), BitVec.getLsbD_of_ge _ _ (not_lt.mp hlt)]

theorem pairField_congr {s w : Nat} (hu : u.extractLsb' s w = 0#w) : q.extractLsb' s w = p.extractLsb' s w := by
  apply BitVec.eq_of_getLsbD_eq
  intro j hj
  have huj : u.getLsbD (s + j) = false := by
    have := congrArg (BitVec.getLsbD · j) hu
    simpa only [BitVec.getLsbD_extractLsb', hj, decide_true, Bool.true_and, BitVec.getLsbD_zero] using this
  rw [BitVec.getLsbD_extractLsb', BitVec.getLsbD_extractLsb', pairBit_congr h huj]

theorem pair_congr (hu : u = 0#32) : q = p :=
  BitVec.eq_of_getLsbD_eq fun j _ => pairBit_congr h (by rw [hu, BitVec.getLsbD_zero])

theorem opField_congr (hu : opField u = 0#6) : opField q = opField p := pairField_congr h hu

theorem kBit_congr (hu : kBit u = false) : kBit q = kBit p := pairBit_congr h hu

theorem rField_congr (hu : rField u = 0#3) : rField q = rField p := pairField_congr h hu

theorem nField_congr (hu : nField u = 0#16) : nField q = nField p := pairField_congr h hu

theorem xrField_congr (hu : xrField u = 0#3) : xrField q = xrField p := pairField_congr h hu

theorem r4Field_congr (hu : r4Field u = 0#4) : r4Field q = r4Field p := pairField_congr h hu

theorem mField_congr (hu : mField u = 0#10) : mField q = mField p := pairField_congr h hu

theorem mbField_congr (hu : mbField u = 0#3) : mbField q = mbField p := pairField_congr h hu

theorem nbField_congr (hu : nbField u = 0#3) : nbField q = nbField p := pairField_congr h hu

theorem bField_congr (hu : bField u = 0#4) : bField q = bField p := pairField_congr h hu

theorem v1Bit_congr (hu : v1Bit u = false) : v1Bit q = v1Bit p := pairBit_congr h hu

theorem amBit_congr (hu : amBit u = false) : amBit q = amBit p := pairBit_congr h hu

theorem n10Field_congr (hu : n10Field u = 0#10) : n10Field q = n10Field p := pairField_congr h hu

theorem addressOf_congr (hx : xBit u = false) (hi : indBit u = false) (hr : xrField u = 0#3) (hn : nField u = 0#16) :
    addressOf q = addressOf p := by
  have ex : xBit q = xBit p := pairBit_congr h hx
  have ei : indBit q = indBit p := pairBit_congr h hi
  rw [addressOf, addressOf, ex, ei, xrField_congr h hr, nField_congr h hn]

theorem flagOf_congr (hm : mField u = 0#10) (hb : bField u = 0#4) : flagOf q = flagOf p := by
  rw [flagOf, flagOf, mField_congr h hm, bField_congr h hb]

theorem secondOperand_congr (hn : n10Field u = 0#10) (hb : nbField u = 0#3) : secondOperand q = secondOperand p := by
  rw [secondOperand, secondOperand, n10Field_congr h hn, nbField_congr h hb]

theorem linkField_congr (L : Layout) (hu : linkField L u = 0#3) : linkField L q = linkField L p := by
  unfold linkField at *
  cases hb : L.brrl with
  | bit16 => rw [hb] at hu; exact mbField_congr h hu
  | bit13 => rw [hb] at hu; exact rField_congr h hu

theorem outputBit_congr (L : Layout) (hu : outputBit L u = false) : outputBit L q = outputBit L p := by
  unfold outputBit at *
  cases ht : L.tsbx with
  | bit16 | bit17 | bit18 | bit19 => rw [ht] at hu; exact pairBit_congr h hu

end Agreeing

section Unused

variable {L : Layout} {p q : DWord} {i : Instr}

/-- NOP, XS and XW read bit 8 and the extension only. -/
theorem decodeTransfer_noOperand (hi : i = .nop ∨ i = .xs ∨ i = .xw) (hk : kBit q = kBit p)
    (hr : rField q = rField p) (h : decodeTransfer p = .ok i) : decodeTransfer q = .ok i := by
  unfold decodeTransfer at *
  rw [hk, hr]
  split at h
  all_goals cases h
  all_goals simp at hi ⊢

end Unused

/-- Settles O3. The pairs have the same operation code, hence the same arm; and the fields that the arm reads have no bit
among the unused ones. -/
theorem unusedBitsIgnored : Obligations.UnusedBitsIgnored := by
  intro L p i hp
  obtain ⟨hw, ho⟩ := decode_ok hp
  refine ⟨hw, fun q h => ?_⟩
  cases i with
  | nop | xs | xw =>
    have hop : opField p = 0x1C#6 := ho.symm.trans (opField_encodeIC _ _ _ _ _)
    rw [unusedBits] at h
    rw [decode_transfer hop] at hp
    rw [decode_transfer ((opField_congr h rfl).trans hop)]
    exact decodeTransfer_noOperand (by simp) (kBit_congr h rfl) (rField_congr h rfl) hp
  | arb =>
    have hop : opField p = 0x03#6 := ho.symm.trans (opField_encodeID _ _ _ _)
    rw [unusedBits] at h
    have hoq := (opField_congr h rfl).trans hop
    rw [← hp, decode_arb hoq, decode_arb hop, kBit_congr h rfl, xrField_congr h rfl, r4Field_congr h rfl,
      nField_congr h rfl]
  | stps =>
    have hop : opField p = 0x39#6 := ho.symm.trans (opField_encodeGroup1 _ _ _ _)
    rw [unusedBits] at h
    have hoq := (opField_congr h rfl).trans hop
    rw [← hp, decode_stps hoq, decode_stps hop, kBit_congr h rfl, addressOf_congr h rfl rfl rfl rfl]
  | brrl =>
    have hop : opField p = 0x0A#6 := ho.symm.trans (opField_encodeBrrl _ _ _)
    obtain ⟨brrlPos, tsbxPos⟩ := L
    cases brrlPos with
    | bit16 | bit13 =>
      simp only [unusedBits] at h
      have hoq := (opField_congr h rfl).trans hop
      rw [← hp, decode_brrl hoq, decode_brrl hop, linkField_congr h _ rfl, secondOperand_congr h rfl rfl]
  | setf =>
    have hop : opField p = 0x22#6 := ho.symm.trans (opField_encodeIII _ _ _ _ _ _)
    rw [unusedBits] at h
    have hoq := (opField_congr h rfl).trans hop
    rw [← hp, decode_setf hoq, decode_setf hop, amBit_congr h rfl, flagOf_congr h rfl rfl, v1Bit_congr h rfl]
  | xfne =>
    have hop : opField p = 0x20#6 := ho.symm.trans (opField_encodeIII _ _ _ _ _ _)
    rw [unusedBits] at h
    have hoq := (opField_congr h rfl).trans hop
    rw [← hp, decode_xfne hoq, decode_xfne hop, amBit_congr h rfl, flagOf_congr h rfl rfl, v1Bit_congr h rfl]
  | setb =>
    have hop : opField p = 0x0D#6 := ho.symm.trans (opField_encodeIII _ _ _ _ _ _)
    rw [unusedBits] at h
    have hoq := (opField_congr h rfl).trans hop
    rw [← hp, decode_setb hoq, decode_setb hop, amBit_congr h rfl, mField_congr h rfl, v1Bit_congr h rfl]
  | xbne =>
    have hop : opField p = 0x0E#6 := ho.symm.trans (opField_encodeIII _ _ _ _ _ _)
    rw [unusedBits] at h
    have hoq := (opField_congr h rfl).trans hop
    rw [← hp, decode_xbne hoq, decode_xbne hop, amBit_congr h rfl, mField_congr h rfl, v1Bit_congr h rfl]
  | bbne =>
    have hop : opField p = 0x0C#6 := ho.symm.trans (opField_encodeIII _ _ _ _ _ _)
    rw [unusedBits] at h
    have hoq := (opField_congr h rfl).trans hop
    rw [← hp, decode_bbne hoq, decode_bbne hop, amBit_congr h rfl, mField_congr h rfl, v1Bit_congr h rfl,
      n10Field_congr h rfl]
  | tsbx =>
    have hop : opField p = 0x0F#6 := ho.symm.trans (opField_encodeIII _ _ _ _ _ _)
    obtain ⟨brrlPos, tsbxPos⟩ := L
    cases tsbxPos with
    | bit16 | bit17 | bit18 | bit19 =>
      simp only [unusedBits] at h
      have hoq := (opField_congr h rfl).trans hop
      rw [← hp, decode_tsbx hoq, decode_tsbx hop, amBit_congr h rfl, mField_congr h rfl, v1Bit_congr h rfl,
        n10Field_congr h rfl, outputBit_congr h _ rfl]
  | ldcr =>
    have hop : opField p = 0x02#6 := ho.symm.trans (opField_encodeIII _ _ _ _ _ _)
    rw [unusedBits] at h
    have hoq := (opField_congr h rfl).trans hop
    rw [← hp, decode_ldcr hoq, decode_ldcr hop, amBit_congr h rfl, mField_congr h rfl, bField_congr h rfl,
      n10Field_congr h rfl]
  | stcr =>
    have hop : opField p = 0x0B#6 := ho.symm.trans (opField_encodeIII _ _ _ _ _ _)
    rw [unusedBits] at h
    have hoq := (opField_congr h rfl).trans hop
    rw [← hp, decode_stcr hoq, decode_stcr hop, amBit_congr h rfl, mField_congr h rfl, bField_congr h rfl,
      n10Field_congr h rfl]
  | _ =>
    rw [unusedBits] at h
    rw [pair_congr h rfl, hp]

/-! ### The arithmetic board (R122, D25) -/

/-- The decoder leaves out the instructions R122 lists. -/
theorem optional_eq_needsBoard (i : Instr) : i.optional = needsBoard i := by cases i <;> rfl

/-- Settles O4. -/
theorem optionalNeedTheBoard : Obligations.OptionalNeedTheBoard := by
  intro c p i h
  rw [decodeFor, h, ← optional_eq_needsBoard]
  cases c.hasArithOption <;> simp

/-- Settles O5: seven fixed words, decoded by evaluation. -/
theorem listedWordsDecode : Obligations.ListedWordsDecode := by
  unfold Obligations.ListedWordsDecode
  decide

end Sys2Proof.Machine
end

section
/-! PROOFS. The family of 40_format_IA.md: register loads and logic (R169 to R172, R178 to R181, R186, R187), sums (R151,
R153, R154), comparisons (R157 to R160), the stores ST and STPS (R185, R253), and branch and link (R155, R156). -/

namespace Sys2Proof.Machine

/-! ### A register and an operand combined

The instructions that take a memory operand and their twins that take the effective address itself (R111) differ in where the
second value comes from. Each way of writing the combination is settled once for either source, whatever the combination. -/

section Combined

variable (s : State) (i : FileIndex) {adr : Address}

theorem putsResult_operand (h : s.operandReads adr = true) (f : Word → Word → Word) :
    PutsResult s (.next ((s.operand adr).after.putResult i (f ((s.operand adr).after.reg i) (s.operand adr).eo))) i
      (f (s.reg i) (s.peek (s.eff adr))) := by
  rw [s.operand_of_reads h]
  exact putsResult s _ _ i

theorem putsResult_form (h : s.addressReads adr = true) (f : Word → Word → Word) :
    PutsResult s (.next ((s.form adr).after.putResult i (f ((s.form adr).after.reg i) (s.form adr).ea))) i
      (f (s.reg i) (s.eff adr)) := by
  rw [s.form_of_reads h]
  exact putsResult s _ _ i

/-- The sum of R151, in the terms of the statements. -/
theorem putsSum_add16 (e x y : Word) :
    PutsSum s (.next ((s.setIb e).putSum i (add16 x y))) i (x + y) (decide (0x10000 ≤ x.toNat + y.toNat))
      (overflows 16 (x.toInt + y.toInt)) := by
  rw [← outside_eq]
  exact putsSum s e (add16 x y) i

theorem putsComparison_operand (h : s.operandReads adr = true) (f : Word → Word → Comparison) :
    PutsComparison s (.next ((s.operand adr).after.setComparison (f ((s.operand adr).after.reg i) (s.operand adr).eo)))
      (f (s.reg i) (s.peek (s.eff adr))) := by
  rw [s.operand_of_reads h]
  exact putsComparison s _ _

theorem putsComparison_form (h : s.addressReads adr = true) (f : Word → Word → Comparison) :
    PutsComparison s (.next ((s.form adr).after.setComparison (f ((s.form adr).after.reg i) (s.form adr).ea)))
      (f (s.reg i) (s.eff adr)) := by
  rw [s.form_of_reads h]
  exact putsComparison s _ _

end Combined

/-- Settles O18: each instruction puts its own combination of the register and the operand. -/
theorem registerLoadsAndLogic : Obligations.RegisterLoadsAndLogic := by
  intro s reg adr h
  have puts := putsResult_operand s (s.regOf reg) h
  refine ⟨?l, ?lot, ?n, ?or, ?xor⟩
  case l => exact puts (fun _ y => y)
  case lot => rw [← popcount_eq]; exact puts (fun _ y => BitVec.ofNat 16 (popcount y))
  case n => exact puts (· &&& ·)
  case or => exact puts (· ||| ·)
  case xor => exact puts (· ^^^ ·)

/-- Settles O19: the combinations of O18 with the effective address in the operand's place. -/
theorem immediateLoadsAndLogic : Obligations.ImmediateLoadsAndLogic := by
  intro s reg adr h
  have puts := putsResult_form s (s.regOf reg) h
  refine ⟨?la, ?lota, ?na, ?ora, ?xora⟩
  case la => exact puts (fun _ y => y)
  case lota => rw [← popcount_eq]; exact puts (fun _ y => BitVec.ofNat 16 (popcount y))
  case na => exact puts (· &&& ·)
  case ora => exact puts (· ||| ·)
  case xora => exact puts (· ^^^ ·)

/-- Settles O20: both instructions put `add16` of the register and their second value. -/
theorem addsToRegister : Obligations.AddsToRegister := by
  rintro s reg adr _ rfl
  refine ⟨fun hread => ?a, fun haddr => ?aa⟩
  case a =>
    show PutsSum s (execA reg adr s) _ _ _ _
    simp only [execA, s.operand_of_reads hread]
    exact putsSum_add16 s _ _ _ _
  case aa =>
    show PutsSum s (execAA reg adr s) _ _ _ _
    simp only [execAA, s.form_of_reads haddr]
    exact putsSum_add16 s _ _ _ _

/-- Settles O22: the signed and the unsigned comparison are `order` of the integers and of the naturals. -/
theorem registerCompares : Obligations.RegisterCompares := by
  rintro s reg adr _ rfl
  simp only [← compareSigned_eq, ← compareLogical_eq]
  refine ⟨fun hread => ⟨?cr, ?crl⟩, fun haddr => ⟨?cra, ?crla⟩⟩
  case cr => exact putsComparison_operand s (s.regOf reg) hread compareSigned
  case crl => exact putsComparison_operand s (s.regOf reg) hread compareLogical
  case cra => exact putsComparison_form s (s.regOf reg) haddr compareSigned
  case crla => exact putsComparison_form s (s.regOf reg) haddr compareLogical

/-- Settles O23: both instructions store a tested result, which nothing suppresses at a storable address. -/
theorem storeRegisterOrSwitches : Obligations.StoreRegisterOrSwitches := by
  intro s reg adr haddr hstore
  rw [exec_st_of_reads s reg haddr, exec_stps_of_reads s haddr]
  exact ⟨storesResult s _ _ _ hstore, storesResult s _ _ _ hstore⟩

/-! ### Branch and link (R155, R156) -/

section Linked

variable (s : State)

theorem frame_setReg (i : FileIndex) (v m : Word) : Frame s (s.setReg i v) [regAddress i] m := by
  constructor
  case words =>
    intro a ha
    have hne : a ≠ regAddress i := by simpa using ha
    rw [State.peek_setReg, if_neg hne]
  case noNewFails => exact fun _ h => h
  all_goals rfl

/-- A link put in a register, then a branch: the register is the one word written, and the active counter holds the
target. -/
theorem links_then_branches (e link target : Word) (i : FileIndex) :
    ∃ t, Host.Outcome.next (((s.setIb e).setReg i link).setLc target) = (.next t : Result) ∧ t.reg i = link ∧
      Counts s t target ∧ SameDevices s t ∧ Frame s t [regAddress i] 0#16 := by
  obtain ⟨t, ht, hcount, hdev, hframe⟩ := branches_setLc (s.setReg i link) e target
  refine ⟨t, ht, ?_, hcount, hdev, (frame_setReg s i link _).trans_nil hframe⟩
  rw [← State.peek_regAddress, hframe.words _ (by simp)]
  simp

end Linked

/-- Settles O24: forming the address leaves the counter alone, so the link is the instruction's own address; *BL takes its
target from the operand at the pre-indexed address. -/
theorem branchAndLink : Obligations.BranchAndLink := by
  intro s reg adr
  refine ⟨fun haddr => ?bl, fun hread => ?starBL⟩
  case bl =>
    have hexec : exec (.bl reg adr) s =
        .next (((s.setIb (s.eff adr)).setReg (s.regOf reg) (s.lc - 2#16)).setLc (s.eff adr)) := by
      show execBL reg adr s = _
      simp only [execBL, s.form_of_reads haddr, State.lc_setIb]
    rw [hexec]
    exact links_then_branches s _ _ _ _
  case starBL =>
    obtain ⟨haddr, hword⟩ := (s.operandReadsPre_iff adr).1 hread
    have hexec : exec (.starBL reg adr) s =
        .next (((s.setIb (s.ea true adr)).setReg (s.regOf reg) (s.lc - 2#16)).setLc (s.peek (s.ea true adr))) := by
      show execStarBL reg adr s = _
      simp only [execStarBL, s.operandPre_sound adr haddr hword, State.lc_setIb]
    rw [hexec]
    exact links_then_branches s _ _ _ _

end Sys2Proof.Machine
end

section
/-! PROOFS. The family of 42_format_IC.md: the unconditional branches (R222, R223, R225), the status blocks stored where nothing
blocks them (R226 to R231), and the transfers of mode (R232 to R237). -/

namespace Sys2Proof.Machine

/-! ### Status blocks that nothing blocks (R221) -/

section Blocks

variable (s : State) {adr : Address}

/-- A block stored in full, then what changes the mode and the counters and stores nothing. -/
theorem storesBlock_of_blockStored {c pc ec : Word} {mode : Mode} {t : State}
    (h : s.storable (s.eff adr) = true) (h2 : s.storable (s.eff adr + 1#16) = true)
    (hm : t.mode = mode) (hpc : t.cpu.pc = pc) (hec : t.cpu.ec = ec) (hd : SameDevices (s.blockStored adr c) t)
    (hf : Frame (s.blockStored adr c) t [] maskMI) : StoresBlock s (.next t) (s.eff adr) c mode pc ec := by
  obtain ⟨hcounter, hstatus, -, -, -, hdev, hframe, -⟩ :=
    (s.setIb (s.eff adr)).storeStatusBlock_storable (s.eff adr) c h h2
  have hwords (b : Word) : t.peek b = (s.blockStored adr c).peek b := hf.words b (by simp)
  have hblock : Frame s (s.blockStored adr c) [s.eff adr, s.eff adr + 1#16] maskMI :=
    hframe.of_setIb.mono fun i _ _ => by simp [bit]
  exact ⟨t, rfl, (hwords _).trans hcounter, (hwords _).trans hstatus, hm, hpc, hec,
    ⟨hd.1.trans hdev.1, hd.2.trans hdev.2⟩, hblock.trans_nil hf⟩

end Blocks

/-- Settles O38: the block is stored from the counter as it stands, and the word after it, which SSB branches to, is none of
the block's own. -/
theorem storeStatusBlocks : Obligations.StoreStatusBlocks := by
  rintro s rq adr e b haddr rfl hbias hs hs2
  obtain rfl : b = s.bias rq s.mode := hbias
  refine ⟨?ss, fun hsound => ?ssb⟩
  case ss =>
    rw [exec_ss_of_reads s rq haddr]
    exact storesBlock_of_blockStored s hs hs2 (by simp) (by simp) (by simp) ⟨rfl, rfl⟩ (Frame.refl _ _)
  case ssb =>
    rw [exec_ssb_of_reads s rq haddr hsound]
    exact storesBlock_of_blockStored s hs hs2 (by simp) (by simp [State.setLc_pc]) (by simp [State.setLc_ec])
      (by simp [SameDevices]) (frame_setLc _ _ _)

/-- Settles O39: `ST` goes into the block before the mode changes, and the branching forms then load the counter of the mode
they enter. -/
theorem storeBlockAndTransfer : Obligations.StoreBlockAndTransfer := by
  rintro s rq adr e bs bw haddr rfl hbs hbw hs hs2
  obtain rfl : bs = s.bias rq .supervisor := hbs
  obtain rfl : bw = s.bias rq .worker := hbw
  refine ⟨?sxs, ?sxw, fun hsound => ⟨?sxbs, ?sxbw⟩⟩
  case sxs =>
    rw [exec_sxs_of_reads s rq haddr]
    exact storesBlock_of_blockStored s hs hs2 (by simp) (by simp) (by simp) (by simp [SameDevices]) (frame_setMode _ _)
  case sxw =>
    rw [exec_sxw_of_reads s rq haddr]
    exact storesBlock_of_blockStored s hs hs2 (by simp) (by simp) (by simp) (by simp [SameDevices]) (frame_setMode _ _)
  case sxbs =>
    rw [exec_sxbs_of_reads s rq haddr hsound]
    exact storesBlock_of_blockStored s hs hs2 (by simp) (by simp) (by simp) (by simp [SameDevices])
      ((frame_setMode _ _).trans_nil (frame_setPc _ _ _))
  case sxbw =>
    rw [exec_sxbw_of_reads s rq haddr hsound]
    exact storesBlock_of_blockStored s hs hs2 (by simp) (by simp) (by simp) (by simp [SameDevices])
      ((frame_setMode _ _).trans_nil (frame_setEc _ _ _))

/-! ### Branches (R222, R223) -/

/-- Settles O36: the target is taken after the address is formed, which leaves the mode and its register 5 alone. -/
theorem unconditionalBranches : Obligations.UnconditionalBranches := by
  intro s rq adr
  refine ⟨fun haddr => ?b, fun hread => ?starB, rfl⟩
  case b =>
    have hexec : exec (.b rq adr) s = .next ((s.setIb (s.eff adr)).setLc (s.eff adr + s.bias rq s.mode)) := by
      show execB rq adr s = _
      simp only [execB, s.form_of_reads haddr, State.bias_setIb]
    rw [hexec]
    exact branches_setLc s _ _
  case starB =>
    obtain ⟨haddr, hword⟩ := (s.operandReadsPre_iff adr).1 hread
    have hexec : exec (.starB rq adr) s =
        .next ((s.setIb (s.ea true adr)).setLc (s.peek (s.ea true adr) + s.bias rq s.mode)) := by
      show execStarB rq adr s = _
      simp only [execStarB, s.operandPre_sound adr haddr hword, State.bias_setIb]
    rw [hexec]
    exact branches_setLc s _ _

/-! ### Transfers (R232 to R237) -/

section Transferring

variable (s : State) (rq : Bool) {adr : Address}

theorem transfers_setMode (m : Mode) : Transfers s (.next (s.setMode m)) m s.cpu.pc s.cpu.ec :=
  ⟨_, rfl, s.setMode_mode m, rfl, rfl, ⟨rfl, rfl⟩, frame_setMode s m⟩

/-- A transfer to Supervisor Mode that branches, after an address is formed. -/
theorem transfers_setPc (e v : Word) :
    Transfers s (.next (((s.setIb e).setMode .supervisor).setPc v)) .supervisor v s.cpu.ec :=
  ⟨_, rfl, State.setMode_mode _ _, rfl, rfl, ⟨rfl, rfl⟩,
    ((frame_setMode (s.setIb e) _).trans_nil (frame_setPc _ _ _)).of_setIb⟩

/-- A transfer to Worker Mode that branches, after an address is formed. -/
theorem transfers_setEc (e v : Word) :
    Transfers s (.next (((s.setIb e).setMode .worker).setEc v)) .worker s.cpu.pc v :=
  ⟨_, rfl, State.setMode_mode _ _, rfl, rfl, ⟨rfl, rfl⟩,
    ((frame_setMode (s.setIb e) _).trans_nil (frame_setEc _ _ _)).of_setIb⟩

theorem exec_xsb_of_reads (h : s.addressReads adr = true) :
    exec (.xsb rq adr) s =
      .next (((s.setIb (s.eff adr)).setMode .supervisor).setPc (s.eff adr + s.bias rq .supervisor)) := by
  show execXSB rq adr s = _
  simp only [execXSB, s.form_of_reads h, State.bias_setIb]

theorem exec_xwb_of_reads (h : s.addressReads adr = true) :
    exec (.xwb rq adr) s =
      .next (((s.setIb (s.eff adr)).setMode .worker).setEc (s.eff adr + s.bias rq .worker)) := by
  show execXWB rq adr s = _
  simp only [execXWB, s.form_of_reads h, State.bias_setIb]

@[simp] theorem State.bias_setMode (m n : Mode) : (s.setMode m).bias rq n = s.bias rq n := rfl

/-- The address formed and the operand there, which *XSB and *XWB read after the mode has changed: no read depends on it. -/
theorem State.form_and_read_setMode (m : Mode) (h : s.operandReads adr = true) :
    s.form adr = { ea := s.eff adr, after := s.setIb (s.eff adr) } ∧
    ((s.setIb (s.eff adr)).setMode m).read (s.eff adr) =
      (s.peek (s.eff adr), (s.setIb (s.eff adr)).setMode m) := by
  obtain ⟨haddr, hword⟩ := (s.operandReads_iff adr).1 h
  exact ⟨s.form_of_reads haddr, State.read_sound ((s.setIb (s.eff adr)).setMode m) _ hword⟩

theorem exec_starXSB_of_reads (h : s.operandReads adr = true) :
    exec (.starXSB rq adr) s =
      .next (((s.setIb (s.eff adr)).setMode .supervisor).setPc (s.peek (s.eff adr) + s.bias rq .supervisor)) := by
  obtain ⟨hform, hread⟩ := s.form_and_read_setMode .supervisor h
  show execStarXSB rq adr s = _
  simp only [execStarXSB, hform, hread, State.bias_setMode, State.bias_setIb]

theorem exec_starXWB_of_reads (h : s.operandReads adr = true) :
    exec (.starXWB rq adr) s =
      .next (((s.setIb (s.eff adr)).setMode .worker).setEc (s.peek (s.eff adr) + s.bias rq .worker)) := by
  obtain ⟨hform, hread⟩ := s.form_and_read_setMode .worker h
  show execStarXWB rq adr s = _
  simp only [execStarXWB, hform, hread, State.bias_setMode, State.bias_setIb]

end Transferring

/-- Settles O40: the register 5 added is the one of the mode entered, which the change of mode leaves alone; the address is
formed before it, in the mode left. -/
theorem modeTransfers : Obligations.ModeTransfers := by
  rintro s rq adr bs bw hbs hbw
  obtain rfl : bs = s.bias rq .supervisor := hbs
  obtain rfl : bw = s.bias rq .worker := hbw
  refine ⟨transfers_setMode s .supervisor, transfers_setMode s .worker,
    fun haddr => ⟨?xsb, ?xwb⟩, fun hread => ⟨?starXSB, ?starXWB⟩⟩
  case xsb => rw [exec_xsb_of_reads s rq haddr]; exact transfers_setPc s _ _
  case xwb => rw [exec_xwb_of_reads s rq haddr]; exact transfers_setEc s _ _
  case starXSB => rw [exec_starXSB_of_reads s rq hread]; exact transfers_setPc s _ _
  case starXWB => rw [exec_starXWB_of_reads s rq hread]; exact transfers_setEc s _ _

end Sys2Proof.Machine
end

section
/-! PROOFS. The family of 44_format_II.md: the word MOV and AMI store where nothing blocks it (R260, R264, R266). -/

namespace Sys2Proof.Machine

/-- A sum in one word of the address space, with its carry and overflow: what `PutsSum` says of a register. -/
def StoresSum (s : State) (r : Result) (a v : Word) (carry overflow : Bool) : Prop :=
  ∃ t, r = .next t ∧ t.peek a = v ∧ t.comparisonIs (compareZero v) ∧ bit t.cpu.st bitCO = carry ∧
    bit t.cpu.st bitOI = overflow ∧ SameCounters s t ∧ SameDevices s t ∧ Frame s t [a] (maskOI ||| maskCO ||| maskCB)

section Sums

variable (s : State)

theorem frame_setOverflow (b : Bool) {m : Word} (h : bit m bitOI = true) : Frame s (s.setOverflow b) [] m := by
  apply Frame.of_fields
  case hst => exact setBit_masked _ _ _ _ (by decide) h
  all_goals rfl

theorem frame_setCarry (b : Bool) {m : Word} (h : bit m bitCO = true) : Frame s (s.setCarry b) [] m := by
  apply Frame.of_fields
  case hst => exact setBit_masked _ _ _ _ (by decide) h
  all_goals rfl

theorem frame_setCB (v : Word) {m : Word} (h : maskCB &&& m = maskCB) : Frame s (s.setCB v) [] m := by
  apply Frame.of_fields
  case hst => exact withComparison_masked _ _ _ h
  all_goals rfl

theorem frame_write (a v m : Word) (h : s.storable a = true) : Frame s (s.write a v) [a] m := by
  rw [s.write_storable a v h]
  exact frame_store s v m (by simp)

/-- A result stored with no address formed: `IB` is as it was. -/
theorem storesResult_here (a v : Word) (h : s.storable a = true) : StoresResult s (.next (s.storeResult a v)) a v :=
  storesResult s s.cpu.ib a v h

theorem storesSum (a v : Word) (carry overflow : Bool) (h : s.storable a = true) :
    StoresSum s (.next ((((s.write a v).setOverflow overflow).setCarry carry).setCB v)) a v carry overflow := by
  have hwrite : Frame s (s.write a v) [a] (maskOI ||| maskCO ||| maskCB) := frame_write s a v _ h
  have hflags : Frame (s.write a v) ((((s.write a v).setOverflow overflow).setCarry carry).setCB v) []
      (maskOI ||| maskCO ||| maskCB) :=
    ((frame_setOverflow _ overflow (by decide)).trans_nil (frame_setCarry _ carry (by decide))).trans_nil
      (frame_setCB _ v (by decide))
  refine ⟨_, rfl, ?word, comparisonIs_withComparison _ _ _ rfl, ?carry, ?overflow, by simp [SameCounters],
    by simp [SameDevices], hwrite.trans_nil hflags⟩
  case word => rw [hflags.words a (by simp), s.peek_write_storable a v a h, if_pos rfl]
  case carry =>
    rw [State.setCB_bit _ _ _ (by decide), State.setCarry_bit _ _ _ (by decide)]
    rfl
  case overflow =>
    rw [State.setCB_bit _ _ _ (by decide), State.setCarry_bit _ _ _ (by decide), State.setOverflow_bit _ _ _ (by decide)]
    rfl

end Sums

/-- Settles O45: MOV stores a tested result; AMI stores `add16` of the word and the extended value, whose overflow is that of
the 13-bit value itself. -/
theorem moveAndAddImmediate : Obligations.MoveAndAddImmediate := by
  rintro s op1 op2 value a a2 x rfl rfl hsound rfl
  rw [← State.baseAddress_eq] at hsound
  rw [← State.baseAddress_eq, ← State.baseAddress_eq]
  refine ⟨fun hstore => ?mov, fun hstore => ?ami⟩
  case mov =>
    rw [exec_mov_of_reads s op1 op2 hsound]
    exact storesResult_here s _ _ hstore
  case ami =>
    rw [exec_ami_of_reads s op1 value hsound, ← overflow_add16_extend]
    exact storesSum s _ _ _ _ hstore

end Sys2Proof.Machine
end

section
/-! PROOFS. The family of 60_exceptions.md: an undefined code (R374), the completion of every instruction (R400), a word
with bad check bits (R372), interrupt entry (R380, R381), ENTER and DISPLAY (R411), and the power events (R373, R424). -/

namespace Sys2Proof.Machine

/-! ### An undefined code met through the location counter (R374) -/

section UndefinedCode

variable (s : State)

theorem State.setLc_lc : s.setLc s.lc = s := by
  simp only [State.setLc, State.lc]
  cases s.mode <;> rfl

/-- The counter where `UC_LC_ADVANCE` puts it, then UC as any internal cause (R374, R376, R378). -/
theorem State.undefinedCode_eq :
    s.undefinedCode =
      ((s.setLc (if s.config.ucLcAdvance then s.lc + 2#16 else s.lc)).setSt (s.cpu.st ||| 0x0800#16)).setPending
        (if bit s.cpu.st bitII && s.config.maskedPolicy == .drop then s.cpu.internalPending else true) := by
  have counter : (if s.config.ucLcAdvance then s.setLc (s.lc + 2#16) else s) =
      s.setLc (if s.config.ucLcAdvance then s.lc + 2#16 else s.lc) := by
    split
    · rfl
    · exact s.setLc_lc.symm
  rw [State.undefinedCode, counter, State.raiseInternal_eq, State.setLc_st, State.setLc_config,
    State.setLc_internalPending]
  rfl

variable {s} in
theorem State.runNext_of_undefined (run : Instr → State → Result)
    (hd : decodeFor (s.fetch s.lc).2.config (s.fetch s.lc).1 = none) :
    s.runNext run = .next (s.fetch s.lc).2.undefinedCode := by
  simp only [State.runNext, hd]

end UndefinedCode

/-- Settles O7: with no request the sample goes on to the fetch, which is sound and decodes to nothing. -/
theorem undefinedCodeInterrupts : Obligations.UndefinedCodeInterrupts := by
  intro s hs hp hr hc hq h1 h2 hd
  have hf := s.fetch_sound s.lc h1 h2
  rw [step_of_no_schedule hs, State.cpuTurn_of_run hp hr hc, State.cpuStep_of_no_request _ hq,
    State.runNext_of_undefined exec (by rw [hf]; exact hd), hf, State.undefinedCode_eq]
  rfl

/-! ### What every instruction but LDS leaves of `ST` (R40, R400) -/

section Completion

variable {x y flags m : Word} {i : Instr}

theorem bit_and (j : Nat) : bit (x &&& y) j = (bit x j && bit y j) := BitVec.getMsbD_and

/-- Bits that are neither written nor the causes of an access stay. -/
theorem StatusStep.and_eq (h : StatusStep x y flags)
    (hm : ∀ j, j < 16 → bit m j = true → bit flags j = false ∧ j ≠ bitMP ∧ j ≠ bitMV) : y &&& m = x &&& m := by
  refine word_ext (fun j hj => ?_)
  rw [bit_and, bit_and]
  cases hmj : bit m j with
  | false => simp
  | true =>
    obtain ⟨hf, hmp, hmv⟩ := hm j hj hmj
    rcases h j hj with hw | he | ⟨hc, -⟩
    · simp [hf] at hw
    · rw [he]
    · exact absurd hc (not_or.2 ⟨hmp, hmv⟩)

/-- Bits that are not written are not cleared. -/
theorem StatusStep.and_kept (h : StatusStep x y flags) (hm : ∀ j, j < 16 → bit m j = true → bit flags j = false) :
    x &&& m = x &&& y &&& m := by
  refine word_ext (fun j hj => ?_)
  rw [bit_and, bit_and, bit_and]
  cases hmj : bit m j with
  | false => simp
  | true =>
    rcases h j hj with hw | he | ⟨-, hset⟩
    · simp [hm j hj hmj] at hw
    · simp [he]
    · simp [hset]

/-- R40 gives no instruction but LDS a cause bit, a mask, the index mode or a reserved bit. -/
theorem flagsWritten_and (h : ∀ rq adr, i ≠ .lds rq adr) : flagsWritten i &&& 0x3FC3#16 = 0#16 := by
  cases i with
  | lds rq adr => exact absurd rfl (h rq adr)
  | _ => simp [flagsWritten, maskMI, maskOI, maskCO, maskCB]

theorem bit_flagsWritten (h : ∀ rq adr, i ≠ .lds rq adr) {j : Nat} (hj : bit 0x3FC3#16 j = true) :
    bit (flagsWritten i) j = false := by
  have hbit := congrArg (bit · j) (flagsWritten_and h)
  simp only [bit_and, hj, Bool.and_true] at hbit
  exact hbit.trans BitVec.getMsbD_zero

end Completion

/-- Settles O8: what an instruction is made of moves no control, and R40 gives the bits of `ST` it may write. -/
theorem everyInstructionCompletes : Obligations.EveryInstructionCompletes := by
  intro i s
  obtain ⟨t, ht, hl⟩ := exec_local i s
  refine ⟨t, ht, hl.running, hl.powered, hl.panel, hl.config, hl.schedule, hl.ia, fun hi => ⟨?masks, ?causes⟩⟩
  case masks =>
    have hm : ∀ j, j < 16 → bit 0x03C3#16 j = true → bit 0x3FC3#16 j = true ∧ j ≠ bitMP ∧ j ≠ bitMV := by decide
    exact hl.status.and_eq (fun j hj hmj => ⟨bit_flagsWritten hi (hm j hj hmj).1, (hm j hj hmj).2⟩)
  case causes =>
    have hm : ∀ j, j < 16 → bit 0x3C00#16 j = true → bit 0x3FC3#16 j = true := by decide
    exact hl.status.and_kept (fun j hj hmj => bit_flagsWritten hi (hm j hj hmj))

/-! ### A word with bad check bits (R48, R372) -/

section CheckBits

variable (s : State) {a : Word} {k : Nat}

theorem State.read_failing (hp : placeOf a = .memory k) (hi : s.installed k = true)
    (hc : s.checkFails.contains k = true) :
    s.read a = (Config.freeWord s.freeCount, s.useFree.raiseInternal .mp) := by
  simp only [State.read, hp, hi, hc, if_true]

theorem State.present_of_installed (hp : placeOf a = .memory k) (hi : s.installed k = true) : s.present a = true := by
  simp only [State.present, hp, hi]

/-- L of a word with bad check bits: the free value is the operand. -/
theorem exec_l_failing (reg : RegRef) (hp : placeOf a = .memory k) (hi : s.installed k = true)
    (hc : s.checkFails.contains k = true) :
    exec (.l reg (.direct a)) s =
      .next (((s.setIb a).useFree.raiseInternal .mp).putResult (s.regOf reg) (Config.freeWord s.freeCount)) := by
  have hread : (s.setIb a).read a = (Config.freeWord s.freeCount, (s.setIb a).useFree.raiseInternal .mp) :=
    (s.setIb a).read_failing hp hi hc
  have hoperand : s.operand (.direct a) =
      { ea := a, eo := ((s.setIb a).read a).1, after := ((s.setIb a).read a).2 } := rfl
  show execL reg (.direct a) s = _
  simp only [execL, hoperand, hread]

end CheckBits

/-- Settles O17: the branch of the read that raises MP; loading its value writes the register and the comparison code
only. -/
theorem parityErrorRaises : Obligations.ParityErrorRaises := by
  intro s a k hp hi hc
  have hread := s.read_failing hp hi hc
  refine ⟨hread, ?raised, s.sound_store_self a _ (s.present_of_installed hp hi), fun reg =>
    ⟨_, exec_l_failing s reg hp hi hc, ?value, comparisonIs_withComparison _ _ _ rfl, ?cause⟩⟩
  case raised =>
    rw [hread]
    exact State.raiseInternal_bit _ .mp bitMP (by decide)
  case value => simp [State.putResult]
  case cause =>
    rw [State.putResult, State.setCB_bit _ _ _ (by decide), State.setReg_st, State.raiseInternal_bit _ _ _ (by decide)]
    rfl

/-! ### Interrupt entry (R380, R381) -/

section Entry

variable (s : State) {v : Level}

/-- The masks that the entry of a level sets (R381 step 3). -/
def levelMasks : Level → Word
  | .internal => 0x01C0#16
  | .cru => 0x00C0#16
  | .dmac => 0x0080#16

theorem State.maskAfter_levelMasks (v : Level) :
    s.maskAfter v =
      (s.setSt (s.cpu.st ||| levelMasks v)).setPending
        (if v = .internal ∧ s.config.requestClearing = .last then false else s.cpu.internalPending) :=
  (s.maskAfter_eq v).trans (by cases v <;> rfl)

theorem State.recognise_internal :
    s.recognise .internal = if s.config.requestClearing = .first then s.setPending false else s := by
  simp only [State.recognise]
  cases s.config.requestClearing <;> rfl

variable {s} in
theorem State.runLocation_of_decoded (run : Instr → State → Result) {p : DWord} {x : State} {i : Instr}
    (hf : s.fetch (locationOf v) = (p, x)) (hd : decodeFor x.config p = some i) :
    s.runLocation run v = run i x := by
  simp only [State.runLocation, hf, hd]

variable {s} in
theorem State.runLocation_of_undefined (run : Instr → State → Result) {p : DWord} {x : State}
    (hf : s.fetch (locationOf v) = (p, x)) (hd : decodeFor x.config p = none) :
    s.runLocation run v = .next (x.raiseInternal .uc) := by
  simp only [State.runLocation, hf, hd]

variable {s} in
/-- An entry whose location's instruction answers `u`, in the installation of `s`: the masks come last. -/
theorem State.takeInterrupt_of_run {run : Instr → State → Result} {u : State}
    (hrun : (s.recognise v).runLocation run v = .next u) (hu : u.config = s.config) :
    s.takeInterrupt run v = .next ((u.setSt (u.cpu.st ||| levelMasks v)).setPending
      (if v = .internal ∧ s.config.requestClearing = .last then false else u.cpu.internalPending)) := by
  rw [State.takeInterrupt, hrun, ← hu]
  exact congrArg Host.Outcome.next (u.maskAfter_levelMasks v)

end Entry

/-- Settles O53: the location is fetched as it stands after recognition; its instruction answers a next state, as every
instruction does, and an undefined code raises UC. -/
theorem interruptEntry : Obligations.InterruptEntry := by
  intro s
  refine ⟨s.recognise_internal, rfl, ?_⟩
  intro v l masks w1 w2 x hl hm h1 h2 hw1 hw2 hx
  obtain rfl : l = locationOf v := hl.trans (by cases v <;> rfl)
  obtain rfl : masks = levelMasks v := hm.trans (by cases v <;> rfl)
  have hfetch : (s.recognise v).fetch (locationOf v) = (pairOf w1 w2, x) := by
    rw [State.fetch_sound _ _ h1 h2, hx, hw1, hw2]
  have hconf : x.config = s.config := by
    rw [hx]
    exact (s.recognise_sameControl v).config
  cases hd : decodeFor s.config (pairOf w1 w2) with
  | some i =>
    obtain ⟨u, hu, hlocal⟩ := exec_local i x
    have hrun := State.runLocation_of_decoded exec hfetch (hconf ▸ hd)
    exact ⟨u, hu, State.takeInterrupt_of_run (hrun.trans hu) (hlocal.config.trans hconf)⟩
  | none =>
    have hrun := State.runLocation_of_undefined exec hfetch (hconf ▸ hd)
    exact ⟨_, rfl, State.takeInterrupt_of_run hrun ((x.raiseInternal_config .uc).trans hconf)⟩

/-! ### ENTER and DISPLAY (R411) -/

section PanelRegisters

variable (s : State) (r : PanelRegister) (v : Word)

theorem State.panelRegister_setPanelRegister (r' : PanelRegister) :
    (s.setPanelRegister r v).panelRegister r' = if r' = r then v else s.panelRegister r' := by
  cases r <;> cases r' <;> rfl

theorem State.panelRegister_setDisplay (d : Word) : (s.setDisplay d).panelRegister r = s.panelRegister r := by
  cases r <;> rfl

theorem State.setPanelRegister_mem : (s.setPanelRegister r v).mem = s.mem := by cases r <;> rfl

theorem State.setPanelRegister_regs : (s.setPanelRegister r v).cpu.regs = s.cpu.regs := by cases r <;> rfl

/-- Entering `ST` requests nothing (D7). -/
theorem State.setPanelRegister_internalPending :
    (s.setPanelRegister r v).cpu.internalPending = s.cpu.internalPending := by cases r <;> rfl

end PanelRegisters

section PanelMemory

variable (s : State) (a v : Word)

theorem setBit_or_bitMask (st : Word) (i : Nat) (b : Bool) : setBit st i b ||| bitMask i = st ||| bitMask i := by
  cases b with
  | true => rw [setBit, if_pos rfl, BitVec.or_assoc, BitVec.or_self]
  | false =>
    refine word_ext (fun j hj => ?_)
    simp only [setBit, bit, Bool.false_eq_true, if_false, BitVec.getMsbD_or, BitVec.getMsbD_and, BitVec.getMsbD_not]
    cases (bitMask i).getMsbD j <;> simp [hj]

/-- Everything a panel write can do: store, or leave `MV` at either value (R72, U6; log 13). -/
theorem State.panelWrite_cases :
    (s.blocked a = false ∧ s.panelWrite a v = s.store a v) ∨
    (s.blocked a = true ∧ (s.panelWrite a v = s.useFree.raiseInternal .mv ∨
      s.panelWrite a v = s.useFree.setSt (setBit s.cpu.st bitMV false))) := by
  unfold State.panelWrite
  cases s.blocked a with
  | false => simp
  | true => cases Config.freeBit s.freeCount <;> simp

theorem State.panelWrite_storable (h : s.storable a = true) : s.panelWrite a v = s.store a v := by
  rcases s.panelWrite_cases a v with ⟨-, e⟩ | ⟨hb, -⟩
  · exact e
  · simp [s.storable_of_blocked a hb] at h

theorem State.panelWrite_sameCounters : SameCounters s (s.panelWrite a v) := by
  rcases s.panelWrite_cases a v with ⟨-, e⟩ | ⟨-, e | e⟩ <;> simp [SameCounters, e]

theorem State.panelWrite_sameDevices : SameDevices s (s.panelWrite a v) := by
  rcases s.panelWrite_cases a v with ⟨-, e⟩ | ⟨-, e | e⟩ <;> simp [SameDevices, e]

theorem State.peek_panelWrite_ne {b : Word} (h : b ≠ a) : (s.panelWrite a v).peek b = s.peek b := by
  rcases s.panelWrite_cases a v with ⟨-, e⟩ | ⟨-, e | e⟩
  · rw [e, s.peek_store_ne a v b h]
  all_goals simp [e]

/-- A suppressed panel write changes `MV` at most; where `MV` ends at 0 it has requested nothing. -/
theorem State.panelWrite_suppressed (h : s.blocked a = true) :
    (s.panelWrite a v).mem = s.mem ∧ (s.panelWrite a v).cpu.regs = s.cpu.regs ∧
    (s.panelWrite a v).checkFails = s.checkFails ∧
    (s.panelWrite a v).cpu.st ||| 0x0400#16 = s.cpu.st ||| 0x0400#16 ∧
    (bit (s.panelWrite a v).cpu.st bitMV = false →
      (s.panelWrite a v).cpu.internalPending = s.cpu.internalPending) := by
  rcases s.panelWrite_cases a v with ⟨hb, -⟩ | ⟨-, e | e⟩
  · simp [h] at hb
  · rw [e]
    refine ⟨by simp, by simp, by simp, ?status, fun hmv => ?latch⟩
    case status =>
      rw [State.raiseInternal_st]
      exact setBit_or_bitMask s.cpu.st bitMV true
    case latch =>
      rw [State.raiseInternal_bit _ .mv bitMV (by decide)] at hmv
      cases hmv
  · rw [e]
    exact ⟨rfl, rfl, rfl, setBit_or_bitMask s.cpu.st bitMV false, fun _ => rfl⟩

theorem State.enterMemory_eq :
    s.enterMemory = (s.panelWrite s.panel.ma s.panel.data).setPanel { s.panel with display := s.panel.data } := by
  have hpanel := (s.panelWrite_keeps s.panel.ma s.panel.data).control.panel
  rw [State.enterMemory, State.setDisplay, hpanel]

theorem State.displayMemory_sound (h : s.sound s.panel.ma = true) :
    s.displayMemory = s.setDisplay (s.peek s.panel.ma) := by
  simp only [State.displayMemory, s.read_sound _ h]

end PanelMemory

section PanelTurns

variable {s : State} {rest : List Turn}

theorem State.inHalt_of_halt (hr : s.running = false) (t : State) : s.inHalt t = .next t := by
  simp [State.inHalt, hr]

/-- A scheduled action of the unlocked panel that works in HALT only, where it leaves `t`. -/
theorem step_of_halted_panel {act : PanelAction} {t : State} (hp : s.powered = true) (hl : s.panel.locked = false)
    (hr : s.running = false) (h : s.schedule = .panel act :: rest)
    (ha : (s.setSchedule rest).panelUnlocked exec act = (s.setSchedule rest).inHalt t) : step s = .next t :=
  (step_of_panel hp hl h).trans (ha.trans (State.inHalt_of_halt (s := s.setSchedule rest) hr t))

/-- MD ENTER and MDI ENTER differ in the `MA` they leave (R411, D1). -/
theorem step_of_enterMemory {act : PanelAction} {ma : Word} (hp : s.powered = true) (hl : s.panel.locked = false)
    (hr : s.running = false) (h : s.schedule = .panel act :: rest)
    (ha : act = .enterMd ∧ ma = s.panel.ma ∨ act = .enterMdi ∧ ma = s.panel.ma + 1#16) :
    step s = .next (((s.setSchedule rest).panelWrite s.panel.ma s.panel.data).setPanel
      { s.panel with display := s.panel.data, ma := ma }) := by
  have hmd := (s.setSchedule rest).enterMemory_eq
  rcases ha with ⟨rfl, rfl⟩ | ⟨rfl, rfl⟩
  · exact (step_of_halted_panel hp hl hr h rfl).trans (congrArg Host.Outcome.next hmd)
  · exact (step_of_halted_panel hp hl hr h rfl).trans (congrArg (fun t => Host.Outcome.next t.nextMa) hmd)

end PanelTurns

/-- Settles O59: each switch by the arm of the panel it is; ENTER of memory by what a panel write can do. -/
theorem enterAndDisplay : Obligations.EnterAndDisplay := by
  refine ⟨fun s => ?lights, ?switches⟩
  case lights => simp [State.dataLights]
  case switches =>
    rintro s rest u rfl hp hl hr
    refine ⟨fun r h => ?enter, fun r h => ?display, fun act ma h ha => ?memory, fun hsound => ⟨fun h => ?md, fun h => ?mdi⟩,
      fun h => ?ia, fun h => ?ib⟩
    case enter =>
      refine ⟨_, step_of_halted_panel hp hl hr h rfl, ?_, rfl, fun r' hne => ?_, ?_, ?_, ?_⟩
      · rw [State.panelRegister_setDisplay, State.panelRegister_setPanelRegister, if_pos rfl]
        rfl
      · rw [State.panelRegister_setDisplay, State.panelRegister_setPanelRegister, if_neg hne]
        cases r' <;> rfl
      · exact State.setPanelRegister_mem _ r _
      · exact State.setPanelRegister_regs _ r _
      · exact State.setPanelRegister_internalPending _ r _
    case display =>
      refine (step_of_halted_panel hp hl hr h rfl).trans ?_
      cases r <;> rfl
    case memory =>
      refine ⟨_, step_of_enterMemory hp hl hr h ha, rfl, State.panelWrite_sameCounters (s.setSchedule rest) _ _,
        State.panelWrite_sameDevices (s.setSchedule rest) _ _,
        fun a hne => State.peek_panelWrite_ne (s.setSchedule rest) _ _ hne, fun hs => ?stored,
        fun hb => State.panelWrite_suppressed (s.setSchedule rest) _ _ hb⟩
      case stored =>
        have hs' : (s.setSchedule rest).storable s.panel.ma = true := hs
        rw [State.panelWrite_storable _ _ _ hs', ← State.write_storable _ _ _ hs']
        refine ⟨?_, State.write_storable_st _ _ _ hs', State.write_storable_internalPending _ _ _ hs'⟩
        rw [State.peek_setPanel, State.peek_write_storable _ _ _ _ hs', if_pos rfl]
    case md =>
      exact (step_of_halted_panel hp hl hr h rfl).trans
        (congrArg Host.Outcome.next ((s.setSchedule rest).displayMemory_sound hsound))
    case mdi =>
      exact (step_of_halted_panel hp hl hr h rfl).trans
        (congrArg (fun t => Host.Outcome.next t.nextMa) ((s.setSchedule rest).displayMemory_sound hsound))
    case ia => exact step_of_halted_panel hp hl hr h rfl
    case ib => exact step_of_halted_panel hp hl hr h rfl

/-! ### The power system (R373, R424) -/

section Power

variable (s : State) (p : PowerUp)

theorem State.spoilWord_sameControl (a : Word) : SameControl s (s.spoilWord a) := by
  unfold State.spoilWord
  split
  · exact SameControl.refl s
  · split
    · exact ⟨rfl, rfl, rfl, rfl, rfl⟩
    · exact SameControl.refl s

theorem State.fillMemory_sameControl (l : List (Word × Word)) : SameControl s (s.fillMemory l) := by
  induction l with
  | nil => exact SameControl.refl s
  | cons c l ih =>
    simp only [State.fillMemory]
    split
    · exact ih
    · exact ih.trans (State.store_sameControl _ _ _)

theorem State.spoilWords_sameControl (l : List Word) : SameControl s (s.spoilWords l) := by
  induction l with
  | nil => exact SameControl.refl s
  | cons a l ih => exact ih.trans (State.spoilWord_sameControl _ a)

theorem State.restoreMemory_sameControl : SameControl s (s.restoreMemory p) := by
  unfold State.restoreMemory
  split
  · exact SameControl.refl s
  · have blank : SameControl s ((s.setMem []).setCheckFails []) := ⟨rfl, rfl, rfl, rfl, rfl⟩
    exact (blank.trans (State.fillMemory_sameControl _ _)).trans (State.spoilWords_sameControl _ _)

theorem State.restoreMemory_kept (h : s.memoryKept p = true) : s.restoreMemory p = s := by
  rw [State.restoreMemory, if_pos h]

theorem State.restorePower_kept (h : s.memoryKept p = true) :
    (s.restorePower p).mem = s.mem ∧ (s.restorePower p).checkFails = s.checkFails := by
  show (s.restoreMemory p).mem = s.mem ∧ (s.restoreMemory p).checkFails = s.checkFails
  rw [s.restoreMemory_kept p h]
  exact ⟨rfl, rfl⟩

/-- The run state follows the MODE switch (D34). -/
theorem State.restorePower_running : (s.restorePower p).running = s.panel.modeRun :=
  congrArg Panel.modeRun (s.restoreMemory_sameControl p).panel

theorem State.restorePower_powerLoss :
    (s.restorePower p).panel.powerLoss = (s.panel.powerLoss || !s.memoryPowered p) :=
  congrArg (fun q : Panel => q.powerLoss || !s.memoryPowered p) (s.restoreMemory_sameControl p).panel

variable {s} {rest : List Turn}

theorem step_of_powerLossSensed (h : s.schedule = .powerLossSensed :: rest) (hp : s.powered = true) :
    step s = .next ((s.setSchedule rest).raiseInternal .pf) := by
  simp [step_of_schedule h, State.takeTurn, State.whilePowered, hp]

theorem step_of_powerRestored {p : PowerUp} (h : s.schedule = .powerRestored p :: rest) (hp : s.powered = false) :
    step s = .next ((s.setSchedule rest).restorePower p) := by
  simp [step_of_schedule h, State.takeTurn, hp]

/-- Without power the processor has stopped (R373). -/
theorem State.cpuTurn_of_powerOff (hp : s.powered = false) : s.cpuTurn = .fault .powerOff := by
  simp [State.cpuTurn, hp]

end Power

/-- Settles O60: each event is a turn of its own; what power restored leaves is read off `State.restorePower`, for which
memory power keeps memory and the latch, and retention keeps memory. -/
theorem powerEvents : Obligations.PowerEvents := by
  intro s rest
  refine ⟨step_of_powerLossSensed, fun h => ?off, fun p h hp => ?restored⟩
  case off =>
    refine ⟨(s.setSchedule rest).losePower, step_of_schedule h, rfl, rfl, fun hrest => ?_⟩
    exact (step_of_no_schedule hrest).trans (State.cpuTurn_of_powerOff rfl)
  case restored =>
    have hloss := (s.setSchedule rest).restorePower_powerLoss p
    refine ⟨_, step_of_powerRestored h hp, rfl, rfl, rfl, State.restorePower_running _ p, fun hb hon => ?battery,
      fun hret => ?retained, fun hlost => ?lost⟩
    case battery =>
      have powered : (s.setSchedule rest).memoryPowered p = true := by simp [State.memoryPowered, hb, hon]
      obtain ⟨hmem, hchecks⟩ := (s.setSchedule rest).restorePower_kept p (by simp [State.memoryKept, powered])
      exact ⟨hmem, hchecks, by simpa [powered] using hloss⟩
    case retained => exact State.restorePower_kept _ p (by simp [State.memoryKept, hret])
    case lost =>
      have unpowered : (s.setSchedule rest).memoryPowered p = false := by
        rcases hlost with hoff | hoff <;> simp [State.memoryPowered, hoff]
      simpa [unpowered] using hloss

end Sys2Proof.Machine
end

section
/-! PROOFS. The family of 70_reset_and_hazards.md: what the cleared status of the reset state means (R421). -/

namespace Sys2Proof.Machine

section ClearedStatus

variable {s : State}

/-- `MI` = 0 is Supervisor Mode (R32). -/
theorem State.mode_of_st_zero (h : s.cpu.st = 0#16) : s.mode = .supervisor := by
  rw [State.mode, h]
  rfl

/-- `IM` = 0 is pre-indexing (R110). -/
theorem State.preindex_of_st_zero (h : s.cpu.st = 0#16) : s.preindex = true := by
  rw [State.preindex, h]
  rfl

end ClearedStatus

theorem State.reset_st : State.reset.cpu.st = 0#16 := rfl

/-- Settles O58: the registers are fields of the reset state; the mode and the indexing are those of a cleared `ST`. -/
theorem resetState : Obligations.ResetState :=
  ⟨rfl, State.reset_st, rfl, rfl, rfl, rfl, rfl, State.mode_of_st_zero State.reset_st,
    State.preindex_of_st_zero State.reset_st⟩

end Sys2Proof.Machine
end

section
/-! PROOFS. The remaining statements: S and SA, SAT, the shifts, products, quotients and double sums (40_format_IA.md), the
conditional branches (41_format_IB.md), LDS (42_format_IC.md), ARB and ADAC (43_format_ID_IE_IF.md), the memory comparisons and
BRRL (44_format_II.md), Group III (45_format_III.md), raising, priority and linkage of interrupts (60_exceptions.md), and the
RESET switch (70_reset_and_hazards.md). -/

namespace Sys2Proof.Machine

/-! ### Frames: the words they name, and what they say of the mode, the registers and `ST` -/

section FrameRules

variable {s t : State} {l l' : List Word} {m : Word}

/-- More words may be named as written than are. -/
theorem Frame.widen (h : Frame s t l m) (hl : ∀ a ∈ l, a ∈ l') : Frame s t l' m := by
  have outside (k : Nat) (hk : outsideWords l' k = true) : outsideWords l k = true :=
    List.all_eq_true.2 fun a ha => List.all_eq_true.1 hk a (hl a ha)
  have narrowed (f : List Nat) :
      f.filter (outsideWords l') = (f.filter (outsideWords l)).filter (outsideWords l') := by
    rw [List.filter_filter]
    refine List.filter_congr fun k _ => ?_
    cases hk : outsideWords l' k with
    | true => simp [outside k hk]
    | false => rfl
  exact { h with
    words := fun a ha => h.words a fun hmem => ha (hl a hmem)
    checks := by rw [narrowed t.checkFails, narrowed s.checkFails, h.checks] }

theorem Frame.mode (h : Frame s t l m) (hm : bit m bitMI = false) : t.mode = s.mode :=
  modeOf_congr (bit_of_masked h.status (by decide) hm)

theorem Frame.reg (h : Frame s t l m) {i : FileIndex} (hi : regAddress i ∉ l) : t.reg i = s.reg i := by
  rw [← State.peek_regAddress, ← State.peek_regAddress, h.words _ hi]

/-- With no indicator written, `ST` is as it was. -/
theorem Frame.st (h : Frame s t l 0#16) : t.cpu.st = s.cpu.st :=
  word_ext fun _ hj => bit_of_masked h.status hj (by simp [bit])

/-- A frame with no indicator is one with any. -/
theorem Frame.with_flags (h : Frame s t l 0#16) (m : Word) : Frame s t l m :=
  h.mono fun _ _ _ => by simp [bit]

theorem SameCounters.lcOf (h : SameCounters s t) (n : Mode) : t.lcOf n = s.lcOf n := by
  cases n with
  | supervisor => exact h.1
  | worker => exact h.2

/-- A branch that follows an operation which leaves the counters, the mode and the devices alone. -/
theorem Branches.after {r : Result} {target : Word} (h : Branches t r target) (hm : t.mode = s.mode)
    (hc : SameCounters s t) (hd : SameDevices s t) :
    ∃ u, r = .next u ∧ Counts s u target ∧ SameDevices s u ∧ Frame t u [] 0#16 := by
  obtain ⟨u, hu, ⟨hactive, hother⟩, ⟨hcru, hdmac⟩, hframe⟩ := h
  rw [hm] at hactive hother
  exact ⟨u, hu, ⟨hactive, hother.trans (hc.lcOf _)⟩, ⟨hcru.trans hd.1, hdmac.trans hd.2⟩, hframe⟩

variable (s)

theorem frame_setReg_mem (i : FileIndex) (v m : Word) (h : regAddress i ∈ l) : Frame s (s.setReg i v) l m :=
  s.store_regAddress i v ▸ frame_store s v m h

theorem frame_write_mem (a v m : Word) (h : s.storable a = true) (hl : a ∈ l) : Frame s (s.write a v) l m :=
  s.write_storable a v h ▸ frame_store s v m hl

end FrameRules

/-! ### Differences (R151, R182, R183, D11) -/

section Differences

variable (s : State) (i : FileIndex)

/-- The difference of R151, in the terms of the statements. -/
theorem putsSum_sub16 (e x y : Word) :
    PutsSum s (.next ((s.setIb e).putSum i (sub16 x y))) i (x - y) (decide (0x10000 ≤ x.toNat + (~~~y).toNat + 1))
      (overflows 16 (x.toInt - y.toInt)) := by
  rw [← outside_eq, ← sub16_carry]
  exact putsSum s e (sub16 x y) i

end Differences

/-- Settles O21: both instructions put `sub16` of the register and their second value. -/
theorem subtractsFromRegister : Obligations.SubtractsFromRegister := by
  rintro s reg adr _ rfl
  refine ⟨fun hread => ?s, fun haddr => ?sa⟩
  case s =>
    show PutsSum s (execS reg adr s) _ _ _ _
    simp only [execS, s.operand_of_reads hread]
    exact putsSum_sub16 s _ _ _ _
  case sa =>
    show PutsSum s (execSA reg adr s) _ _ _ _
    simp only [execSA, s.form_of_reads haddr]
    exact putsSum_sub16 s _ _ _ _

/-! ### SAT where nothing blocks the shifted word (R184) -/

section TallyStored

variable (s : State)

/-- What SAT leaves in the register before the tally is added: the shifted word, where the operand is that register (log
35). -/
theorem State.reg_write_storable (a v : Word) (i : FileIndex) (h : s.storable a = true) :
    (s.write a v).reg i = if a = regAddress i then v else s.reg i := by
  rw [← State.peek_regAddress, s.peek_write_storable _ _ _ h, State.peek_regAddress]
  simp only [eq_comm]

theorem exec_sat_of_reads (reg : RegRef) {adr : Address} (h : s.operandReads adr = true) {n : Nat}
    (hn : clz16 (s.peek (s.eff adr)) = n) {u : State}
    (hu : (s.setIb (s.eff adr)).write (s.eff adr) ((s.peek (s.eff adr) <<< n) &&& 0x7FFF#16) = u) :
    exec (.sat reg adr) s =
      .next (((u.setReg (s.regOf reg) (u.reg (s.regOf reg) + BitVec.ofNat 16 n)).setCarry
        (add16 (u.reg (s.regOf reg)) (BitVec.ofNat 16 n)).carry).setCB (u.reg (s.regOf reg) + BitVec.ofNat 16 n)) := by
  subst hu
  show execSAT reg adr s = _
  simp only [execSAT, s.operand_of_reads h, hn]
  rfl

end TallyStored

/-- Settles O25: the shifted word is stored first, and the register is read after it; no later update touches a word but the
register. -/
theorem shiftAndAddTally : Obligations.ShiftAndAddTally := by
  rintro s reg adr e v old n hread rfl hstore hz ho hn rfl rfl
  set i := s.regOf reg
  set v := (s.peek (s.eff adr) <<< n) &&& 0x7FFF#16
  have hstore' : (s.setIb (s.eff adr)).storable (s.eff adr) = true := hstore
  obtain ⟨u, hu⟩ : ∃ u, (s.setIb (s.eff adr)).write (s.eff adr) v = u := ⟨_, rfl⟩
  have hold : u.reg i = if s.eff adr = regAddress i then v else s.reg i :=
    hu ▸ State.reg_write_storable _ _ _ i hstore'
  have hword : u.peek (s.eff adr) = v := by rw [← hu, State.peek_write_storable _ _ _ _ hstore', if_pos rfl]
  have hframe : Frame s u [s.eff adr, regAddress i] (maskCO ||| maskCB) :=
    hu ▸ (frame_write_mem (s.setIb (s.eff adr)) _ v _ hstore' (by simp)).of_setIb
  have hcounters : SameCounters s u := by simp [SameCounters, ← hu]
  have hdevices : SameDevices s u := by simp [SameDevices, ← hu]
  rw [← hold]
  refine ⟨_, exec_sat_of_reads s reg hread (leadingZeros_eq _ n 16 hz ho hn) hu, ?register, fun hne => ?stored, ?carry,
    comparisonIs_withComparison _ _ _ rfl, hcounters, hdevices, ?frame⟩
  case register => simp [i]
  case stored =>
    rw [State.peek_setCB, State.peek_setCarry, State.peek_setReg, if_neg hne]
    exact hword
  case carry =>
    rw [State.setCB_bit _ _ _ (by decide), State.setCarry_bit _ _ _ (by decide), carry_add16_ofNat _ hn]
    rfl
  case frame =>
    exact ((hframe.trans (frame_setReg_mem _ i _ _ (by simp))).trans_nil (frame_setCarry _ _ (by decide))).trans_nil
      (frame_setCB _ _ (by decide))

/-! ### Shifts where nothing blocks the result (R164 to R167, R175 to R177, R203 to R209) -/

/-- Settles O26: the count of R175, and each shift by the way it writes its result. -/
theorem registerCountShifts : Obligations.RegisterCountShifts := by
  rintro s reg adr e v c hread rfl hstore rfl rfl
  rw [← count16_eq, ← shiftOverflow_eq, exec_mlax_of_reads s reg hread, exec_mrax_of_reads s reg hread,
    exec_mrrx_of_reads s reg hread]
  exact ⟨storesShift s _ _ _ _ hstore, storesResult s _ _ _ hstore, storesResult s _ _ _ hstore⟩

/-- Settles O31: the count of R164, and each shift by the way it writes its result. -/
theorem doubleRegisterCountShifts : Obligations.DoubleRegisterCountShifts := by
  rintro s reg adr e v c hread rfl hstore hstore2 rfl rfl
  rw [← count32_eq, ← shiftOverflow_eq, exec_dlax_of_reads s reg hread, exec_drax_of_reads s reg hread,
    exec_drlx_of_reads s reg hread, exec_drrx_of_reads s reg hread]
  exact ⟨storesShift2 s _ _ _ _ hstore hstore2, storesResult2 s _ _ _ hstore hstore2,
    storesResult2 s _ _ _ hstore hstore2, storesResult2 s _ _ _ hstore hstore2⟩

/-- Settles O33: the shifts of O26 with the count of the instruction. -/
theorem immediateCountShifts : Obligations.ImmediateCountShifts := by
  rintro s count adr e v hread rfl hstore rfl
  rw [← shiftOverflow_eq, exec_mla_of_reads s count hread, exec_mra_of_reads s count hread,
    exec_mrr_of_reads s count hread]
  exact ⟨storesShift s _ _ _ _ hstore, storesResult s _ _ _ hstore, storesResult s _ _ _ hstore⟩

/-- Settles O34: the shifts of O31 with the count of the instruction. -/
theorem doubleImmediateCountShifts : Obligations.DoubleImmediateCountShifts := by
  rintro s count adr e v hread rfl hstore hstore2 rfl
  rw [← shiftOverflow_eq, exec_dla_of_reads s count hread, exec_dra_of_reads s count hread,
    exec_drl_of_reads s count hread, exec_drr_of_reads s count hread]
  exact ⟨storesShift2 s _ _ _ _ hstore hstore2, storesResult2 s _ _ _ hstore hstore2,
    storesResult2 s _ _ _ hstore hstore2, storesResult2 s _ _ _ hstore hstore2⟩

/-- One step of a left shift compares the first two bits; the steps after it are those of the word shifted by one place. -/
theorem shiftOverflow_succ {w : Nat} (v : BitVec w) (c : Nat) :
    shiftOverflow v (c + 1) = true ↔ v.getMsbD 0 ≠ v.getMsbD 1 ∨ shiftOverflow (v <<< 1) c = true := by
  have hfirst : v.msb = v.getMsbD 0 := rfl
  have hsecond : (v <<< 1).msb = v.getMsbD 1 := by
    rw [BitVec.msb, BitVec.getMsbD_shiftLeft]
  simp [shiftOverflow, hfirst, hsecond]

/-- Settles O35, by induction on the count: the word shifted by one place has its bits one place later. -/
theorem shiftOverflowIsUnequalBits : Obligations.ShiftOverflowIsUnequalBits := by
  intro w c
  induction c with
  | zero =>
    intro v
    simp [shiftOverflow]
  | succ c ih =>
    intro v
    simp only [shiftOverflow_succ, ih, BitVec.getMsbD_shiftLeft, Nat.zero_add]
    constructor
    · rintro (hfirst | ⟨k, hk, hne⟩)
      · exact ⟨1, by omega, hfirst.symm⟩
      · by_cases hone : v.getMsbD 1 = v.getMsbD 0
        · exact ⟨k + 1, by omega, hone ▸ hne⟩
        · exact ⟨1, by omega, hone⟩
    · rintro ⟨k, hk, hne⟩
      by_cases hone : v.getMsbD 0 = v.getMsbD 1
      · cases k with
        | zero => exact absurd rfl hne
        | succ k => exact .inr ⟨k, by omega, hone ▸ hne⟩
      · exact .inl hone

/-! ### Register pairs: products, double sums and quotients (R161 to R163, R168, R173, R174) -/

section Pairs

variable (s : State) (reg : RegRef) {adr : Address} {i : FileIndex}

/-- The pair as it stands, after an address is formed. -/
theorem State.readPair_of_reads (e : Word) (h : s.pairReads i = true) :
    (s.setIb e).readPair i = (joinWords (s.reg i) (s.peek (regAddress i + 1#16)), s.setIb e) :=
  (s.setIb e).readPair_sound i h

theorem exec_d_of_reads (h : s.operandReads adr = true) (hp : s.pairReads (s.regOf reg) = true) :
    exec (.d reg adr) s = .next ((s.setIb (s.eff adr)).putQuotient (s.regOf reg)
      (divide (joinWords (s.reg (s.regOf reg)) (s.peek (regAddress (s.regOf reg) + 1#16))) (s.peek (s.eff adr)))) := by
  show execD reg adr s = _
  simp only [execD, s.operand_of_reads h, s.readPair_of_reads _ hp]

theorem exec_da_of_reads (h : s.addressReads adr = true) (hp : s.pairReads (s.regOf reg) = true) :
    exec (.da reg adr) s = .next ((s.setIb (s.eff adr)).putQuotient (s.regOf reg)
      (divide (joinWords (s.reg (s.regOf reg)) (s.peek (regAddress (s.regOf reg) + 1#16))) (s.eff adr))) := by
  show execDA reg adr s = _
  simp only [execDA, s.form_of_reads h, s.readPair_of_reads _ hp]

/-- The quotient rounded toward zero is fixed by a remainder smaller than the divisor and of the dividend's sign (D12). -/
theorem tdiv_of_remainder {n d q r : Int} (hn : n = q * d + r) (hr : r.natAbs < d.natAbs) (hs : 0 ≤ r * n) :
    n.tdiv d = q := by
  have hd : d ≠ 0 := by rintro rfl; simp at hr
  have hn' : r + d * q = n := by rw [hn, Int.mul_comm, Int.add_comm]
  have hzero : n = 0 → r = 0 := fun h =>
    Int.eq_zero_of_dvd_of_natAbs_lt_natAbs ⟨-q, by rw [Int.mul_neg]; omega⟩ hr
  rcases lt_or_ge n 0 with hneg | hpos
  · have : r ≤ 0 := by
      by_contra hlt
      exact absurd (mul_neg_of_pos_of_neg (not_le.1 hlt) hneg) (not_lt.2 hs)
    exact ((Int.tdiv_tmod_unique' hneg.le hd).2 ⟨hn', by omega, this⟩).1
  · have : 0 ≤ r := by
      rcases hpos.eq_or_lt with h0 | hlt
      · exact (hzero h0.symm).ge
      · exact nonneg_of_mul_nonneg_left hs hlt
    exact ((Int.tdiv_tmod_unique hpos hd).2 ⟨hn', this, by omega⟩).1

/-- A division whose quotient fits (R161). -/
theorem divide_of_remainder {n : DWord} {d : Word} {q r : Int} (hd : d ≠ 0#16) (hn : n.toInt = q * d.toInt + r)
    (hr : r.natAbs < d.toInt.natAbs) (hs : 0 ≤ r * n.toInt) (hlo : -32768 ≤ q) (hhi : q ≤ 32767) :
    divide n d = some { quotient := BitVec.ofInt 16 q, remainder := BitVec.ofInt 16 r } := by
  have hq : n.toInt.tdiv d.toInt = q := tdiv_of_remainder hn hr hs
  have hfits : outside 16 q = false := by simp [outside]; omega
  have hrem : n.toInt - q * d.toInt = r := by omega
  simp [divide, hq, hfits, hd, hrem]

/-- A zero divisor, or a quotient that does not fit (D13). -/
theorem divide_eq_none {n : DWord} {d : Word} (h : d = 0#16 ∨ overflows 16 (n.toInt.tdiv d.toInt) = true) :
    divide n d = none := by
  rw [← outside_eq] at h
  exact if_pos h

theorem frame_writePair (v : DWord) (m : Word) (h : s.storable (regAddress i + 1#16) = true) :
    Frame s (s.writePair i v) [regAddress i, regAddress i + 1#16] m :=
  (frame_setReg_mem s i _ m (by simp)).trans
    (frame_write_mem (s.setReg i (highWord v)) _ _ m h (by simp))

theorem frame_freeCB {m : Word} (h : writesCB m = true) : Frame s s.freeCB [] m := by
  obtain ⟨hgt, heq, hlt⟩ := writesCB_iff.1 h
  apply Frame.of_fields
  case hst =>
    rw [State.freeCB, State.setSt_st, setBit_masked _ _ _ _ (by decide) hlt, setBit_masked _ _ _ _ (by decide) heq,
      setBit_masked _ _ _ _ (by decide) hgt]
  all_goals rfl

/-- The comparison bits are free, and no other bit of `ST` is. -/
theorem State.bit_freeCB {j : Nat} (hj : j < 16) (hcb : bit maskCB j = false) :
    bit s.freeCB.cpu.st j = bit s.cpu.st j :=
  bit_of_masked (frame_freeCB s (m := maskCB) (by decide)).status hj hcb

/-- A divide with no quotient: `OI`, and free values in the pair and the comparison bits (U5). -/
theorem putQuotient_none (e : Word) (h : s.storable (regAddress i + 1#16) = true) :
    ∃ t, (.next ((s.setIb e).putQuotient i none) : Result) = .next t ∧ bit t.cpu.st bitOI = true ∧ SameCounters s t ∧
      SameDevices s t ∧ Frame s t [regAddress i, regAddress i + 1#16] (maskOI ||| maskCB) := by
  obtain ⟨u, hu⟩ : ∃ u, ((s.setIb e).setOverflow true).useFree.useFree = u := ⟨_, rfl⟩
  obtain ⟨v, ht⟩ : ∃ v, (s.setIb e).putQuotient i none = (u.writePair i v).freeCB := by
    subst hu
    exact ⟨_, rfl⟩
  have hstore : u.storable (regAddress i + 1#16) = true := hu ▸ h
  have hoi : bit u.cpu.st bitOI = true := hu ▸ (s.setIb e).setOverflow_bit true bitOI (by decide)
  have hu_frame : Frame s u [] (maskOI ||| maskCB) :=
    hu ▸ (((frame_setOverflow (s.setIb e) true (by decide)).trans_nil (frame_useFree _ _)).trans_nil
      (frame_useFree _ _)).of_setIb
  obtain ⟨-, -, -, hst, -⟩ := u.writePair_storable i v hstore
  refine ⟨_, congrArg _ ht, ?overflow, ?counters, ?devices, ?frame⟩
  case overflow => rw [State.bit_freeCB _ (by decide) (by decide), hst, hoi]
  case counters => simp [SameCounters, State.freeCB, State.writePair, ← hu]
  case devices => simp [SameDevices, State.freeCB, State.writePair, ← hu]
  case frame =>
    exact (hu_frame.widen (by simp)).trans ((frame_writePair u v _ hstore).trans_nil (frame_freeCB _ (by decide)))

end Pairs

/-- Settles O27: both instructions put the product of the register and their second value. -/
theorem multiplies : Obligations.Multiplies := by
  rintro s reg adr i rfl hstore
  refine ⟨fun hread => ?m, fun haddr => ?ma⟩
  case m =>
    show PutsPair s (execM reg adr s) _ _ _ _
    simp only [execM, s.operand_of_reads hread]
    exact putsProduct s _ _ _ hstore
  case ma =>
    show PutsPair s (execMA reg adr s) _ _ _ _
    simp only [execMA, s.form_of_reads haddr]
    exact putsProduct s _ _ _ hstore

/-- Settles O28: the hypotheses fix the quotient, which is then put in the pair with its remainder. -/
theorem divides : Obligations.Divides := by
  rintro s reg adr i d q r rfl hstore hpair hd hn hr hs hlo hhi
  have hdiv := divide_of_remainder hd hn hr hs hlo hhi
  have puts (e : Word) := putsPair_overflow s e (joinWords (BitVec.ofInt 16 r) (BitVec.ofInt 16 q)) _ false hstore
  simp only [highWord_joinWords] at puts
  refine ⟨fun hread hd' => ?d, fun haddr hd' => ?da⟩
  case d =>
    rw [exec_d_of_reads s reg hread hpair, ← hd', hdiv]
    exact puts _
  case da =>
    rw [exec_da_of_reads s reg haddr hpair, ← hd', hdiv]
    exact puts _

/-- Settles O29: there is no quotient, so the pair and the comparison bits are free. -/
theorem divideOverflows : Obligations.DivideOverflows := by
  rintro s reg adr i d rfl hstore hpair hd
  have hdiv := divide_eq_none hd
  refine ⟨fun hread hd' => ?d, fun haddr hd' => ?da⟩
  case d =>
    rw [exec_d_of_reads s reg hread hpair, ← hd', hdiv]
    exact putQuotient_none s _ hstore
  case da =>
    rw [exec_da_of_reads s reg haddr hpair, ← hd', hdiv]
    exact putQuotient_none s _ hstore

/-- Settles O30: the memory operand is read before the pair's second word, and neither read changes the other. -/
theorem doubleAddAndSubtract : Obligations.DoubleAddAndSubtract := by
  rintro s reg adr i x y rfl hstore hpair hread rfl rfl
  rw [← outside_eq, ← outside_eq]
  refine ⟨?dad, ?ds⟩
  case dad =>
    show PutsPair s (execDAD reg adr s) _ _ _ _
    simp only [execDAD, s.operand2_of_reads hread, s.readPair_of_reads _ hpair]
    exact putsPair_overflow s _ _ _ _ hstore
  case ds =>
    show PutsPair s (execDS reg adr s) _ _ _ _
    simp only [execDS, s.operand2_of_reads hread, s.readPair_of_reads _ hpair]
    exact putsPair_overflow s _ _ _ _ hstore

/-! ### Conditional branches (R201, R202) -/

/-- A branch taken on a condition, after an address is formed (D31). -/
theorem branches_ite (s : State) (e target : Word) (b : Bool) :
    Branches s (.next (if b then (s.setIb e).setLc target else s.setIb e)) (if b then target else s.lc) := by
  cases b with
  | true => exact branches_setLc s e target
  | false => exact branches_stay s e

/-- Settles O32: forming the address and reading the operand leave `ST` alone, so the bit tested is that of `s`. -/
theorem conditionalBranches : Obligations.ConditionalBranches := by
  intro s r adr
  refine ⟨fun haddr => ?bc, fun hread => ?starBC⟩
  case bc =>
    show Branches s (execBC r adr s) _
    simp only [execBC, s.form_of_reads haddr]
    exact branches_ite s _ _ _
  case starBC =>
    obtain ⟨haddr, hword⟩ := (s.operandReadsPre_iff adr).1 hread
    have hform := s.formPre_sound adr haddr
    have hoperand := s.operandPre_sound adr haddr hword
    simp only [State.operandPre, hform] at hoperand
    show Branches s (execStarBC r adr s) _
    simp only [execStarBC, hform, hoperand]
    exact branches_ite s _ _ _

/-! ### LDS (R224, D30) -/

section LoadingStatus

variable (s : State)

theorem State.lcOf_setSt (v : Word) (m : Mode) : (s.setSt v).lcOf m = s.lcOf m := by cases m <;> rfl

/-- LDS may write every bit of `ST`, so a frame with all sixteen says nothing of it. -/
theorem frame_setSt_all (v : Word) : Frame s (s.setSt v) [] 0xFFFF#16 := by
  apply Frame.of_fields
  case hst => simp
  all_goals rfl

theorem exec_lds_of_reads (rq : Bool) {adr : Address} (h : s.operandReads2 adr = true) :
    exec (.lds rq adr) s =
      .next (((s.setIb (s.eff adr)).setLc (s.peek (s.eff adr) + s.bias rq s.mode)).setSt
        (s.peek (s.eff adr + 1#16))) := by
  obtain ⟨haddr, hfirst, hsecond⟩ := (s.operandReads2_iff adr).1 h
  have hread := (s.setIb (s.eff adr)).read_sound (s.eff adr) hfirst
  have hread' := (s.setIb (s.eff adr)).read_sound (s.eff adr + 1#16) hsecond
  show execLDS rq adr s = _
  simp only [execLDS, s.form_of_reads haddr, State.loadStatusBlock, hread, hread', State.bias_setIb,
    State.peek_setIb]

end LoadingStatus

/-- Settles O37: the counter is loaded in the mode that executes LDS, before `ST` is. -/
theorem loadStatusBlock : Obligations.LoadStatusBlock := by
  intro s rq adr hread
  obtain ⟨t, ht, ⟨hactive, hother⟩, hdevices, hframe⟩ :=
    branches_setLc s (s.eff adr) (s.peek (s.eff adr) + s.bias rq s.mode)
  cases ht
  refine ⟨_, exec_lds_of_reads s rq hread, ⟨?_, ?_⟩, rfl, hdevices, ?_⟩
  · exact (State.lcOf_setSt _ _ _).trans hactive
  · exact (State.lcOf_setSt _ _ _).trans hother
  · exact (hframe.with_flags _).trans_nil (frame_setSt_all _ _)

/-! ### ARB and ADAC (R251, R252) -/

theorem fileIndex_inj (m : Mode) (r r' : RegNo) : fileIndex m r = fileIndex m r' ↔ r = r' := by
  cases m <;> simp [fileIndex, Fin.ext_iff]

/-- Settles O41: the sum is put as any tested result is, and the branch is decided and biased on the state after it
(D32). -/
theorem addToRegisterAndBranch : Obligations.AddToRegisterAndBranch := by
  rintro s rq xr addend n res five hres rfl
  obtain ⟨t, ht, hreg, hcode, hcounters, hdevices, hframe⟩ := putsResult s s.cpu.ib res (fileIndex s.mode xr)
  obtain rfl : s.putResult (fileIndex s.mode xr) res = t := by cases ht; rfl
  set t := s.putResult (fileIndex s.mode xr) res with ht
  have hmode : t.mode = s.mode := hframe.mode (by decide)
  have hlc : t.lc = s.lc := by
    rw [State.lc, State.lc, hmode, hcounters.lcOf]
  have hfive : t.reg (fileIndex s.mode 5) = if xr = 5 then res else s.active 5 := by
    simp [ht, State.putResult, State.active, fileIndex_inj]
  obtain ⟨u, hu, hcount, hdevices', hframe'⟩ :=
    (branches_ite t t.cpu.ib (n + t.bias rq s.mode) (bit res 0 == bit (s.active xr) 0)).after hmode hcounters hdevices
  have hmode' : u.mode = s.mode := (hframe'.mode (by decide)).trans hmode
  refine ⟨u, ?exec, ?sum, ?code, ?counter, hdevices', hframe.trans_nil (hframe'.with_flags _)⟩
  case exec =>
    rw [← hu, ht, hres]
    rfl
  case sum => rw [State.active, hmode', hframe'.reg (by simp), hreg]
  case code => simpa only [State.comparisonIs, hframe'.st] using hcode
  case counter =>
    simpa only [State.bias, hfive, hlc, beq_iff_eq] using hcount

/-- Settles O42: with no controller installed nothing is sent, else the message joins the queue. -/
theorem activateChannel : Obligations.ActivateChannel := by
  intro s aq n
  by_cases h : s.config.dmacPorts = 0
  · have hexec : exec (.adac aq n) s = .next s := congrArg Host.Outcome.next (if_pos h)
    exact ⟨s, hexec, by simp [h], rfl, rfl, rfl, rfl, rfl, rfl, Frame.refl s _⟩
  · have hexec : exec (.adac aq n) s =
        .next (s.setDmac { s.dmac with activations := s.dmac.activations ++ [(aq, n)] }) :=
      congrArg Host.Outcome.next (if_neg h)
    exact ⟨_, hexec, by simp [h], rfl, rfl, rfl, rfl, rfl, rfl, frame_setDmac s _ [] _⟩

/-! ### The memory comparisons and BRRL (R260 to R263, R265, R267) -/

section Skips

variable (s : State)

theorem order_eq_ite (x y : Int) : order x y = if x < y then .less else if x > y then .greater else .equal := by
  rcases lt_trichotomy x y with h | h | h
  · simp [order, h, h.not_gt, h.ne]
  · simp [order, h]
  · simp [order, h, h.not_gt]

/-- The skip of a comparison with a lower and an upper bound, the lower first (R263, D27). -/
theorem skip_bounds (x lo hi : Int) :
    Branches s (.next (s.skip (if x < lo then .less else if x > hi then .greater else .equal)))
      (s.lc + (if x < lo then 0#16 else if x > hi then 2#16 else 4#16)) := by
  by_cases hlo : x < lo
  · simpa only [if_pos hlo] using s.skip_branches .less
  · by_cases hhi : x > hi
    · simpa only [if_neg hlo, if_pos hhi] using s.skip_branches .greater
    · simpa only [if_neg hlo, if_neg hhi] using s.skip_branches .equal

theorem skip_compareSigned (x y : Word) :
    Branches s (.next (s.skip (compareSigned x y)))
      (s.lc + (if x.toInt < y.toInt then 0#16 else if x.toInt > y.toInt then 2#16 else 4#16)) := by
  rw [compareSigned_eq, order_eq_ite]
  exact skip_bounds s _ _ _

end Skips

/-- Settles O43: sound operands read as they stand, and the skip is that of the comparison. -/
theorem memoryCompares : Obligations.MemoryCompares := by
  rintro s op1 op2 value x y a1 a2 rfl rfl h1 rfl rfl
  rw [← State.baseAddress_eq] at h1
  rw [← State.baseAddress_eq, ← State.baseAddress_eq]
  have hread := s.read_sound _ h1
  refine ⟨fun h2 => ?cm, fun h2 h3 => ?cml, ?cmi⟩
  case cm =>
    show Branches s (execCM op1 op2 s) _
    simp only [execCM, hread, s.read_sound _ h2]
    exact skip_compareSigned s _ _
  case cml =>
    show Branches s (execCML op1 op2 s) _
    simp only [execCML, hread, s.read_sound _ h2, s.read_sound _ h3]
    exact skip_bounds s _ _ _
  case cmi =>
    have hvalue : (extend13 value).toInt = value.toInt := BitVec.toInt_signExtend_of_le (by decide)
    show Branches s (execCMI op1 value s) _
    simp only [execCMI, hread, ← hvalue]
    exact skip_compareSigned s _ _

/-- Settles O44: a link and a branch, with the base read before either. -/
theorem branchRelativeAndLink : Obligations.BranchRelativeAndLink := by
  intro s link target
  obtain ⟨t, ht, hreg, hcount, hdevices, hframe⟩ := links_then_branches s s.cpu.ib
    ((if s.config.brrlLinkUpdated then s.lc else s.lc - 2#16) - s.active target.base)
    (extend10 target.disp + s.active target.base) (fileIndex s.mode link)
  refine ⟨t, ht, ?_, ?_, hdevices, hframe⟩
  · rw [State.active, hframe.mode (by decide), hreg]
  · rwa [extend10_add, BitVec.add_comm] at hcount

/-! ### The operand addresses of Group III (R280) -/

section GroupAddresses

variable (s : State) (am : Bool)

theorem State.flagAddress_eq (m : BitVec 10) :
    s.flagAddress am m = s.reg (fileIndex (if am then otherMode s.mode else s.mode) 6) + BitVec.ofNat 16 m.toNat :=
  extend10_add _ _

theorem State.dataAddress_eq (n : BitVec 10) :
    s.dataAddress am n = s.reg (fileIndex (if am then otherMode s.mode else s.mode) 4) + BitVec.ofNat 16 n.toNat :=
  extend10_add _ _

theorem State.cruAddress_eq (m : BitVec 10) :
    s.cruAddress am m =
      BitVec.ofNat 12 (m.toNat + (s.reg (fileIndex (if am then otherMode s.mode else s.mode) 7)).toNat) :=
  lineOf_add _ _

/-- A branch target is relative to the active mode's register 5, whatever `am` is. -/
theorem State.branchTarget_eq (n : BitVec 10) : s.branchTarget n = BitVec.ofNat 16 n.toNat + s.active 5 :=
  (extend10_add _ _).trans (BitVec.add_comm _ _)

end GroupAddresses

/-! ### Software flags (R281 to R283) -/

section Flags

variable (s : State) (am v1 : Bool) (flag : FlagRef)

/-- SETF at a storable word: the word changed in one bit, and the code that `SETF_CB_POLICY` gives (D19). -/
theorem exec_setf_of_reads (h : s.sound (s.flagAddress am flag.m) = true) {w : Word}
    (hw : setBit (s.peek (s.flagAddress am flag.m)) flag.b.val v1 = w) :
    ∃ u c, exec (.setf am flag v1) s = .next (u.setComparison c) ∧
      (s.config.setfPolicy = .word → c = compareZero w) ∧
      (u = s.write (s.flagAddress am flag.m) w ∨ u = (s.write (s.flagAddress am flag.m) w).useFree) := by
  have arm : exec (.setf am flag v1) s = execSETF am flag v1 s := rfl
  rw [arm]
  simp only [execSETF, s.read_sound _ h, hw]
  cases s.config.setfPolicy with
  | any => exact ⟨_, _, rfl, (fun hp => nomatch hp), .inr rfl⟩
  | word => exact ⟨_, _, rfl, fun _ => rfl, .inl rfl⟩

theorem exec_xfne_of_reads (h : s.sound (s.flagAddress am flag.m) = true) :
    exec (.xfne am flag v1) s =
      .next (s.switchUnless (bit (s.peek (s.flagAddress am flag.m)) flag.b.val) v1) := by
  show execXFNE am flag v1 s = _
  simp only [execXFNE, s.read_sound _ h]

theorem exec_bfne_of_reads (n : BitVec 10) (h : s.sound (s.flagAddress am flag.m) = true) :
    exec (.bfne am flag v1 n) s =
      .next (s.branchUnless (bit (s.peek (s.flagAddress am flag.m)) flag.b.val) v1 (s.branchTarget n)) := by
  show execBFNE am flag v1 n s = _
  simp only [execBFNE, s.read_sound _ h]

variable {v1} {f : Bool}

theorem State.switchUnless_of_eq (h : f = v1) : s.switchUnless f v1 = s := by simp [State.switchUnless, h]

theorem State.switchUnless_of_ne (h : f ≠ v1) : s.switchUnless f v1 = s.switchMode := by simp [State.switchUnless, h]

theorem State.branchUnless_of_eq (target : Word) (h : f = v1) : s.branchUnless f v1 target = s := by
  simp [State.branchUnless, h]

theorem State.branchUnless_of_ne (target : Word) (h : f ≠ v1) : s.branchUnless f v1 target = s.setLc target := by
  simp [State.branchUnless, h]

/-- A branch with no address formed: `IB` is as it was. -/
theorem branches_setLc_here (target : Word) : Branches s (.next (s.setLc target)) target :=
  branches_setLc s s.cpu.ib target

end Flags

/-- Settles O46: the word written is the flag's word with one bit set, and either policy then writes a comparison code. -/
theorem setFlag : Obligations.SetFlag := by
  rintro s am flag v1 a rfl hsound hstore
  rw [← State.flagAddress_eq] at hsound hstore ⊢
  obtain ⟨w, hw⟩ : ∃ w, setBit (s.peek (s.flagAddress am flag.m)) flag.b.val v1 = w := ⟨_, rfl⟩
  obtain ⟨u, c, hexec, hcode, hu⟩ := exec_setf_of_reads s am v1 flag hsound hw
  have hwrite := frame_write s (s.flagAddress am flag.m) w maskCB hstore
  have hframe : Frame s u [s.flagAddress am flag.m] maskCB := by
    rcases hu with rfl | rfl
    · exact hwrite
    · exact hwrite.trans_nil (frame_useFree _ _)
  have hpeek : u.peek (s.flagAddress am flag.m) = w := by
    rcases hu with rfl | rfl
    · rw [s.peek_write_storable _ _ _ hstore, if_pos rfl]
    · rw [State.peek_useFree, s.peek_write_storable _ _ _ hstore, if_pos rfl]
  obtain ⟨hcounters, hdevices⟩ : SameCounters s u ∧ SameDevices s u := by
    rcases hu with rfl | rfl <;> simp [SameCounters, SameDevices]
  refine ⟨_, c, hexec, fun j hj => ?bits, comparisonIs_withComparison _ _ _ rfl, fun hp => ?code, hcounters, hdevices,
    hframe.trans_nil (frame_setComparison u c)⟩
  case bits =>
    show bit (u.peek (s.flagAddress am flag.m)) j = _
    rw [hpeek, ← hw, bit_setBit _ _ _ _ flag.b.isLt hj]
    simp only [eq_comm (a := j)]
  case code => exact (hcode hp).trans (congrArg compareZero hpeek.symm)

/-- Settles O47: the flag's word is read with no effect, then the test goes on, switches or branches. -/
theorem flagTests : Obligations.FlagTests := by
  rintro s am flag v1 n a rfl hsound
  rw [← State.flagAddress_eq] at hsound ⊢
  rw [← State.branchTarget_eq, exec_xfne_of_reads s am v1 flag hsound, exec_bfne_of_reads s am v1 flag n hsound]
  refine ⟨fun heq => ?equal, fun hne => ?unequal⟩
  case equal =>
    rw [s.switchUnless_of_eq heq, s.branchUnless_of_eq _ heq]
    exact ⟨rfl, rfl⟩
  case unequal =>
    rw [s.switchUnless_of_ne hne, s.branchUnless_of_ne _ hne]
    exact ⟨s.switchMode_does, branches_setLc_here s _⟩

/-! ### CRU lines (R284 to R289) -/

/-- Settles O48: SETB drives one line, LDCR the lines of a field, and nothing else changes. -/
theorem cruOutputs : Obligations.CruOutputs := by
  rintro s am v1 m n width line a rfl rfl
  rw [← State.cruAddress_eq, ← State.dataAddress_eq]
  refine ⟨⟨_, rfl, s.cruOut_drives _ _⟩, fun hsound hwidth => ?ldcr⟩
  case ldcr =>
    have hexec : exec (.ldcr am m width n) s =
        .next (s.putField (s.cruAddress am m) (s.peek (s.dataAddress am n)) width) := by
      show execLDCR am m width n s = _
      simp only [execLDCR, s.read_sound _ hsound]
    exact ⟨_, hexec, s.putField_drives _ _ _ (by omega)⟩

section Inputs

variable (s : State) (am v1 : Bool) (m : BitVec 10)

/-- A line that a module drives is read with no effect (R390). -/
theorem State.cruIn_of_input {line : CruLine} (h : s.hasInput line = true) :
    s.cruIn line = (lineLevel s.cru.inputs line, s) := by
  simp [State.cruIn, h]

theorem exec_xbne_of_input (h : s.hasInput (s.cruAddress am m) = true) :
    exec (.xbne am m v1) s = .next (s.switchUnless (lineLevel s.cru.inputs (s.cruAddress am m)) v1) := by
  show execXBNE am m v1 s = _
  simp only [execXBNE, s.cruIn_of_input h]

theorem exec_bbne_of_input (n : BitVec 10) (h : s.hasInput (s.cruAddress am m) = true) :
    exec (.bbne am m v1 n) s =
      .next (s.branchUnless (lineLevel s.cru.inputs (s.cruAddress am m)) v1 (s.branchTarget n)) := by
  show execBBNE am m v1 n s = _
  simp only [execBBNE, s.cruIn_of_input h]

theorem exec_tsbx_of_input (n : BitVec 10) (ob : Bool) (h : s.hasInput (s.cruAddress am m) = true) :
    exec (.tsbx am m v1 n ob) s =
      .next (if lineLevel s.cru.inputs (s.cruAddress am m) = v1 then s.cruOut (s.cruAddress am n) ob
        else if am then s else s.switchMode) := by
  show execTSBX am m v1 n ob s = _
  simp only [execTSBX, s.cruIn_of_input h, beq_iff_eq]

end Inputs

/-- Settles O49: the line is read with no effect, then the test goes on, switches, branches or drives an output. -/
theorem inputTests : Obligations.InputTests := by
  rintro s am v1 ob m n line out rfl rfl hinput
  rw [← State.cruAddress_eq] at hinput ⊢
  rw [← State.cruAddress_eq, ← State.branchTarget_eq, exec_xbne_of_input s am v1 m hinput,
    exec_bbne_of_input s am v1 m n hinput, exec_tsbx_of_input s am v1 m n ob hinput]
  refine ⟨fun heq => ?equal, fun hne => ?unequal⟩
  case equal =>
    rw [s.switchUnless_of_eq heq, s.branchUnless_of_eq _ heq, if_pos heq]
    exact ⟨rfl, rfl, _, rfl, s.cruOut_drives _ _⟩
  case unequal =>
    rw [s.switchUnless_of_ne hne, s.branchUnless_of_ne _ hne, if_neg hne]
    refine ⟨s.switchMode_does, branches_setLc_here s _, fun ham => ?_, fun ham => ?_⟩
    · rw [if_pos ham]
    · rw [if_neg (Bool.eq_false_iff.1 ham)]
      exact s.switchMode_does

/-- Settles O50: the field read and extended is a tested result stored. -/
theorem storeCommunicationRegister : Obligations.StoreCommunicationRegister := by
  rintro s am m n width line a v rfl rfl hstore hlo hhi hinput hbits
  rw [← State.cruAddress_eq] at hinput hbits
  rw [← State.dataAddress_eq] at hstore ⊢
  rw [exec_stcr_of_reads s am m n hlo hhi hinput hbits]
  exact storesResult_here s _ _ hstore

/-! ### Raising, priority, and linkage of interrupts (R376 to R378, R382) -/

/-- Settles O51: one bit of `ST`, and the latch by the mask and the policy. -/
theorem raisingACause : Obligations.RaisingACause := by
  intro s c
  have hlatch := s.raiseInternal_internalPending c
  refine ⟨fun j hj => ?bits, fun hunmasked => ?unmasked, fun hmasked hhold => ?hold, fun hmasked hdrop => ?drop⟩
  case bits =>
    rw [s.raiseInternal_bit c j hj]
    simp only [eq_comm (a := j)]
    cases c <;> rfl
  case unmasked => simpa [bitII, hunmasked] using hlatch
  case hold => simpa [bitII, hmasked, hhold] using hlatch
  case drop => simpa [bitII, hmasked, hdrop] using hlatch

/-- The sample in the terms of the statements (R377). -/
theorem State.requested_eq (s : State) :
    s.requested =
      if s.cpu.internalPending = true ∧ bit s.cpu.st 7 = false then some .internal
      else if s.cru.interruptLine = true ∧ bit s.cpu.st 9 = false then some .cru
      else if s.dmac.intStatus ≠ 0#8 ∧ bit s.cpu.st 8 = false then some .dmac
      else none := by
  simp [State.requested, State.dmacLine, bitII, bitCI, bitDI]

/-- Settles O52: in RUN the turn is the processor's, and its step takes the level sampled. -/
theorem interruptPriority : Obligations.InterruptPriority := by
  intro s hs hp hr hc
  rw [step_of_no_schedule hs, State.cpuTurn_of_run hp hr hc, State.cpuStep, s.requested_eq]
  split_ifs <;> rfl

section Linkage

variable (s : State)

/-- `7880` and the address of a block are the fields of `SXBS BLK` (R105, R118). -/
theorem pairOf_eq_encode_sxbs (L : Layout) (blk : Word) :
    pairOf 0x7880#16 blk = encode L (.sxbs false (.direct blk)) := by
  have hfixed : encodeIC 0x1E#6 true 0#3 false (.direct 0#16) = 0x78800000#32 := by decide
  have hzero : place (0#16) 0 = 0#32 := by decide
  have hplace : place blk 0 = blk.setWidth 32 := BitVec.shiftLeft_zero _
  simp only [encodeIC, encodeGroup1, Address.n, hzero, BitVec.or_zero] at hfixed
  show _ = encodeIC 0x1E#6 true 0#3 false (.direct blk)
  simp only [encodeIC, encodeGroup1, Address.n, hplace, pairOf, BitVec.append_def]
  exact congrArg (· ||| _) hfixed.symm

theorem decodeFor_linkage (c : Config) (blk : Word) :
    decodeFor c (pairOf 0x7880#16 blk) = some (.sxbs false (.direct blk)) := by
  have hdecode : decode c.layout (pairOf 0x7880#16 blk) = .ok (.sxbs false (.direct blk)) :=
    pairOf_eq_encode_sxbs c.layout blk ▸ decodeEncodeAgree c.layout _ rfl
  simp only [decodeFor, hdecode]
  rfl

/-- Recognising an internal request changes the latch at most, and with R380's reading clears it (log 20). -/
theorem State.recognise_internal_setPending :
    ∃ b, s.recognise .internal = s.setPending b ∧ (s.config.requestClearing = .first → b = false) := by
  rw [State.recognise_internal]
  by_cases h : s.config.requestClearing = .first
  · exact ⟨false, if_pos h, fun _ => rfl⟩
  · exact ⟨s.cpu.internalPending, if_neg h, fun hf => absurd hf h⟩

theorem State.sound_write_self (a v : Word) (h : s.storable a = true) : (s.write a v).sound a = true :=
  s.write_storable a v h ▸ s.sound_store_self a v (s.present_of_storable h)

/-- The words of a block that nothing blocks are written with their check bits (R48). -/
theorem State.storeStatusBlock_sound (e c : Word) (h : s.storable e = true) (h2 : s.storable (e + 1#16) = true) :
    (s.storeStatusBlock e c).sound e = true ∧ (s.storeStatusBlock e c).sound (e + 1#16) = true :=
  ⟨State.sound_write _ _ _ _ (s.sound_write_self e c h), State.sound_write_self _ _ _ (by simpa using h2)⟩

/-- What the linkage of R382 leaves in `t` of the state `s` it was entered from, the masks apart: the block, which reads
without an error, the handler's counter in Supervisor Mode, and every other word. -/
structure LinkedAt (s t : State) (blk : Word) : Prop where
  counter : t.peek blk = s.cpu.pc
  status : t.peek (blk + 1#16) = s.cpu.st
  mode : t.mode = .supervisor
  pc : t.cpu.pc = s.peek (blk + 2#16)
  ec : t.cpu.ec = s.cpu.ec
  words : ∀ a, a ≠ blk → a ≠ blk + 1#16 → t.peek a = s.peek a
  reads : t.sound blk = true ∧ t.sound (blk + 1#16) = true

variable {s} {u : State} {blk : Word}

/-- Neither the latch nor `IA` and `IB`, where the fetch leaves the pair, is part of the linkage. -/
theorem LinkedAt.of_fetched {b : Bool} {w1 w2 : Word} (h : LinkedAt (((s.setPending b).setIa w1).setIb w2) u blk) :
    LinkedAt s u blk :=
  ⟨h.counter, h.status, h.mode, h.pc, h.ec, h.words, h.reads⟩

/-- Setting the masks and the latch moves neither the mode, a counter nor a word. -/
theorem LinkedAt.masked (h : LinkedAt s u blk) (b : Bool) :
    LinkedAt s ((u.setSt (u.cpu.st ||| 0x01C0#16)).setPending b) blk :=
  ⟨h.counter, h.status, (modeOf_congr (by simp [bit, bitMI])).trans h.mode, h.pc, h.ec, h.words, h.reads⟩

variable (s) (blk)

/-- `SXBS BLK` where nothing blocks its block: the linkage, with `ST` changed in `MI` only and nothing requested. -/
theorem exec_sxbs_linkage (h : s.storable blk = true) (h2 : s.storable (blk + 1#16) = true)
    (h3 : s.sound (blk + 2#16) = true) :
    ∃ u, exec (.sxbs false (.direct blk)) s = .next u ∧ LinkedAt s u blk ∧
      u.cpu.st &&& 0x7FFF#16 = s.cpu.st &&& 0x7FFF#16 ∧ u.cpu.internalPending = s.cpu.internalPending := by
  obtain ⟨-, -, hbranch⟩ := storeBlockAndTransfer s false (.direct blk) blk 0#16 0#16 rfl rfl rfl rfl h h2
  obtain ⟨⟨u, hu, hcounter, hstatus, hmode, hpc, hec, -, hframe⟩, -⟩ := hbranch h3
  have hreads : u.sound blk = true ∧ u.sound (blk + 1#16) = true := by
    cases hu.symm.trans (exec_sxbs_of_reads s false (adr := .direct blk) rfl h3)
    exact (s.setIb blk).storeStatusBlock_sound blk _ h h2
  exact ⟨u, hu,
    { counter := by simpa using hcounter
      status := hstatus
      mode := hmode
      pc := by simpa using hpc
      ec := hec
      words := fun a hne hne' => hframe.words a (by simp [hne, hne'])
      reads := hreads },
    hframe.status, hframe.pending⟩

/-- `LDS BLK` in Supervisor Mode, where the block reads without an error: the counter and `ST` come back from it. -/
theorem exec_lds_linkage (hm : s.mode = .supervisor) (h : s.sound blk = true) (h2 : s.sound (blk + 1#16) = true) :
    ∃ u, exec (.lds false (.direct blk)) s = .next u ∧ u.cpu.pc = s.peek blk ∧ u.cpu.ec = s.cpu.ec ∧
      u.cpu.st = s.peek (blk + 1#16) ∧ Frame s u [] 0xFFFF#16 := by
  obtain ⟨u, hu, ⟨hactive, hother⟩, hstatus, -, hframe⟩ :=
    loadStatusBlock s false (.direct blk) ((s.operandReads2_iff _).2 ⟨rfl, h, h2⟩)
  rw [hm] at hactive hother
  exact ⟨u, hu, hactive.trans (BitVec.add_zero _), hother, hstatus, hframe⟩

end Linkage

/-- Settles O55: the entry of O53 runs `SXBS BLK`, and setting the masks keeps what it links, so that `LDS BLK` finds the
stored words. -/
theorem interruptLinkageAndReturn : Obligations.InterruptLinkageAndReturn := by
  intro s blk hs hp hr hc hpending hmask hsound hsound' hword hword' hstore hstore' hthird
  have hstep : step s = s.takeInterrupt exec .internal :=
    (interruptPriority s hs hp hr hc).trans (if_pos ⟨hpending, hmask⟩)
  obtain ⟨b, hrec, hb⟩ := s.recognise_internal_setPending
  obtain ⟨-, -, hentry⟩ := interruptEntry s
  obtain ⟨u, hu, hentered⟩ := hentry .internal 0x90#16 0x01C0#16 0x7880#16 blk _ rfl rfl (hrec ▸ hsound)
    (hrec ▸ hsound') (hrec ▸ hword.symm) (hrec ▸ hword'.symm) rfl
  rw [decodeFor_linkage, hrec] at hu
  obtain ⟨u', hu', hlinked, hkept, hpend⟩ :=
    exec_sxbs_linkage (((s.setPending b).setIa 0x7880#16).setIb blk) blk hstore hstore' hthird
  cases hu.symm.trans hu'
  have hlatch : (if Level.internal = .internal ∧ s.config.requestClearing = .last then false
      else u.cpu.internalPending) = false := by
    cases hq : s.config.requestClearing with
    | last => simp
    | first => simpa [hpend] using hb hq
  rw [hlatch] at hentered
  have ht := hlinked.of_fetched.masked false
  obtain ⟨v, hv, hpc, hec, hst, hframe⟩ := exec_lds_linkage _ blk ht.mode ht.reads.1 ht.reads.2
  refine ⟨_, hstep.trans hentered, ht.counter, ht.status, ht.pc, ht.ec, ht.mode, ?masks, rfl, ht.words, v, hv,
    hpc.trans ht.counter, hec.trans ht.ec, hst.trans ht.status, hframe.pending, fun a => hframe.words a (by simp)⟩
  case masks =>
    show (u.cpu.st ||| 0x01C0#16) &&& 0x7FFF#16 = _
    rw [BitVec.and_or_distrib_right, BitVec.and_or_distrib_right, hkept]
    rfl

/-! ### The RESET switch (R420, R422, R423) -/

/-- Free values in the registers change nothing else (D22). -/
theorem State.freeRegs_eq (s : State) (k : Nat) :
    ∃ regs n, s.freeRegs k = { s with cpu := { s.cpu with regs := regs }, freeCount := n } := by
  induction k with
  | zero => exact ⟨s.cpu.regs, s.freeCount, rfl⟩
  | succ k ih =>
    obtain ⟨regs, n, h⟩ := ih
    simp only [State.freeRegs, h]
    split
    · exact ⟨_, _, rfl⟩
    · exact ⟨_, _, rfl⟩

/-- Settles O57: the cleared registers are written before the free values, which touch none of them. -/
theorem resetSwitch : Obligations.ResetSwitch := by
  intro s rest h hp hl hr
  have hstep : step s = .next (s.setSchedule rest).panelReset := step_of_halted_panel hp hl hr h rfl
  obtain ⟨regs, n, hregs⟩ := State.freeRegs_eq _ 16
  have hreset : (s.setSchedule rest).panelReset = _ := hregs
  rw [hreset] at hstep
  exact ⟨_, hstep, rfl, rfl, rfl, rfl, rfl, rfl, hr, rfl, rfl, rfl, rfl, ⟨rfl, rfl⟩, rfl⟩

end Sys2Proof.Machine
end
